-- ==== Sys2Proof/Syntax.lean ====
section
/-!
DEFINITION. The commands of the PJV engine, one constructor per row of spec/opcode_table.json. "The command set is
exactly KDEC, ENC, DEC" (spec/60_exceptions.md R161); "A command has no operand fields: its operands are the
registers KBUF_LEN or DLEN and the buffers" (spec/30_encoding.md R64).
-/

namespace Sys2Proof

/-- A command of the engine (spec/30_encoding.md R64). -/
inductive Instr where
  /-- KDEC: decode and validate the Key in KBUF (spec/40_key_decode.md R80). -/
  | kdec
  /-- ENC: transform DBUF in place, direction Encrypt (spec/42_transform.md R100). -/
  | enc
  /-- DEC: transform DBUF in place, direction Decrypt (spec/42_transform.md R100). -/
  | dec
deriving DecidableEq, Repr

end Sys2Proof
end

