-- ==== Sys2Proof/Word.lean ====
section
/-!
DEFINITION. The two widths the host of the PJV engine can see: a buffer cell is one byte, a register is one
32-bit word (spec/20_memory.md R42, R44; spec/10_state.md R11, R12).
-/

namespace Sys2Proof

/-- A byte: "8 bits, an unsigned value 0 to 255" (spec/00_scope.md, notation). -/
abbrev Byte := BitVec 8

/-- A host-visible register value: "All are 32 bits wide as seen by the host" (spec/10_state.md R11). -/
abbrev Word := BitVec 32

end Sys2Proof
end

