-- ==== Sys2Proof/Decode.lean ====
section
/-!
DEFINITION. Format C, the command word (spec/30_encoding.md R64, R65): the decoder, total on every 32-bit word,
and the encoder written from the same table. (Format K, the Key layout, is in Machine/KeyFormat.lean.)
-/

namespace Sys2Proof

/-- Why a command word is illegal (spec/30_encoding.md R65). Both reasons end in the one error BADCMD. -/
inductive DecodeError where
  /-- A bit of the field `zero`, bits [31:2], is set. -/
  | zeroFieldSet
  /-- The field `zero` is clear and `op` is 0b00: the word 0x00000000. -/
  | opZero
deriving DecidableEq, Repr

/-- The field `zero`, bits [31:2] of a command word (spec/30_encoding.md R64). -/
def zeroField (w : Word) : BitVec 30 := w.extractLsb' 2 30

/-- The field `op`, bits [1:0] of a command word (spec/30_encoding.md R64). -/
def opField (w : Word) : BitVec 2 := w.extractLsb' 0 2

/-- The command a word encodes: "Bits [31:2] must be 0", then `op` 01 KDEC, 10 ENC, 11 DEC, 00 illegal
(spec/30_encoding.md R64, R65). -/
def decode (w : Word) : Except DecodeError Instr :=
  if zeroField w ≠ 0 then .error .zeroFieldSet
  else if opField w = 0b01#2 then .ok .kdec
  else if opField w = 0b10#2 then .ok .enc
  else if opField w = 0b11#2 then .ok .dec
  else .error .opZero

/-- The command word of a command (spec/30_encoding.md R64). -/
def encode : Instr → Word
  | .kdec => 0x00000001#32
  | .enc => 0x00000002#32
  | .dec => 0x00000003#32

/-- The 32-bit word whose low `nbits` bits are those of `w` and whose other bits are 0. -/
def tableWord (nbits w : Nat) : Word := BitVec.ofNat 32 (w % 2 ^ nbits)

/-- The command the decoder reads from a row's bits, numbered as spec/opcode_table.json numbers them. A command is
one 32-bit register value, so there is no byte order to choose (spec/10_state.md R12); bits above 31 exist in no
command word, and a value that has one is no command. -/
def decodeTableWord (nbits w : Nat) : Option Instr :=
  if w % 2 ^ nbits < 2 ^ 32 then (decode (tableWord nbits w)).toOption else none

end Sys2Proof
end

