-- ==== Sys2Proof/Machine/ErrorCodes.lean ====
section
/-!
DEFINITION. The error kinds and sub-causes of the block with their numbers (spec/10_state.md R28, R29;
spec/60_exceptions.md R151, R152).
-/

namespace Sys2Proof.Machine

/-- The three error kinds of the document's taxonomy (spec/60_exceptions.md R150). -/
inductive ErrKind where
  | invalidArgument
  | invalidFormat
  /-- Never raised by the block (spec/60_exceptions.md R152). -/
  | ioFailure
deriving DecidableEq, Repr

/-- The sub-causes of spec/10_state.md R29. -/
inductive ErrSub where
  | header
  | finalizer
  | length
  | truncated
  | keylenRange
  | nokey
  | badcmd
  | dlenRange
deriving DecidableEq, Repr

/-- ERRCODE numbers: 0 none, 1 InvalidArgument, 2 InvalidFormat, 3 IOFailure (spec/10_state.md R28). -/
def errKindCode : ErrKind → BitVec 2
  | .invalidArgument => 1
  | .invalidFormat => 2
  | .ioFailure => 3

/-- ERRSUB numbers: 0 none, 1 HEADER, 2 FINALIZER, 3 LENGTH, 4 TRUNCATED, 5 KEYLEN_RANGE, 6 NOKEY, 7 BADCMD,
8 DLEN_RANGE (spec/10_state.md R29). -/
def errSubCode : ErrSub → BitVec 4
  | .header => 1
  | .finalizer => 2
  | .length => 3
  | .truncated => 4
  | .keylenRange => 5
  | .nokey => 6
  | .badcmd => 7
  | .dlenRange => 8

/-- The kind each sub-cause is raised with; "No other combination of ERRCODE and ERRSUB ever occurs"
(spec/60_exceptions.md R151). -/
def errSubKind : ErrSub → ErrKind
  | .header => .invalidFormat
  | .finalizer => .invalidFormat
  | .length => .invalidFormat
  | .truncated => .invalidFormat
  | .keylenRange => .invalidFormat
  | .nokey => .invalidFormat
  | .badcmd => .invalidArgument
  | .dlenRange => .invalidArgument

end Sys2Proof.Machine
end

