-- ==== Sys2Proof/Config.lean ====
section
/-!
DEFINITION. What is fixed for one PJV engine: the constants of spec/00_scope.md R6, the parameters the spec
leaves OPEN (DMAX, JI_EVAL), and the one free value of the block (spec/93_implementation_defined.md U2).
-/

namespace Sys2Proof.Config

/-- `ROUNDS`: "10, fixed", "a design constant, not configurable" (spec/00_scope.md R6). -/
def rounds : Nat := 10
/-- `KLEN_MIN`, the smallest legal key_len (spec/00_scope.md R6). -/
def klenMin : Nat := 4
/-- `KLEN_MAX`, the largest legal key_len (spec/00_scope.md R6). -/
def klenMax : Nat := 65535
/-- `KEY_OVERHEAD`: the bytes of a Key that are not key block (spec/00_scope.md R6). -/
def keyOverhead : Nat := 8
/-- Offset of the key block inside a Key (spec/30_encoding.md R60). -/
def blockOffset : Nat := 7
/-- `KCAP`: the capacity of KBUF, 65543 = 8 + 65535 bytes (spec/00_scope.md R6). -/
def kcap : Nat := 65543
/-- `HEADER`: the first byte of a Key (spec/00_scope.md R6). -/
def header : Byte := 0xFF
/-- `FINALIZER`: the last byte of a Key (spec/00_scope.md R6). -/
def finalizer : Byte := 0x00
/-- `JI_DIV`: the divisor of jump_frequency in jump_interval (spec/00_scope.md R6). -/
def jiDiv : Nat := 255
/-- `JI_BLOCK`: the divisor of the data length in jump_interval (spec/00_scope.md R6). -/
def jiBlock : Nat := 16
/-- `JI_MIN`: the floor value of jump_interval (spec/00_scope.md R6). -/
def jiMin : Nat := 2

/-- `JI_EVAL`: how the division by 255 is evaluated (spec/41_jump_schedule.md R92, spec/92_eei_decisions.md D13). -/
inductive JiEval where
  /-- Exact arithmetic, the spec's decision (R90). -/
  | exact
  /-- IEEE 754 binary64, the documented alternative (R92). -/
  | binary64
deriving DecidableEq, Repr

/-- The open parameters a rule of the block depends on. A State carries them, so that a claim about every state
holds for every DMAX and for both evaluations; no step writes them (notes/assumptions/1.md, 2.md). -/
structure Params where
  /-- `DMAX`, the capacity of DBUF: "1 <= DMAX <= 2^32 - 1" (spec/00_scope.md R6). -/
  dmax   : Word
  /-- `JI_EVAL` (spec/00_scope.md R6). -/
  jiEval : JiEval
deriving DecidableEq, Repr

/-- Free: the word an instance's DMAX is taken from (notes/assumptions/1.md). -/
opaque dmaxWord : Word

/-- `DMAX` of the instance that `State.reset` describes: any value of 1 to 2^32 - 1, and nothing says which. -/
def dmax : Word := if dmaxWord = 0 then 1 else dmaxWord

/-- The parameters of the instance that `State.reset` describes: DMAX open, JI_EVAL at the spec's default
`exact` (spec/92_eei_decisions.md D8, D13). -/
def params : Params := { dmax := dmax, jiEval := .exact }

/-- Free: the byte that the n-th host read of a cell without a value returns, "an arbitrary byte, not necessarily
the same on two reads" (spec/93_implementation_defined.md U2; notes/assumptions/7.md). -/
opaque freeReadByte : Nat → Byte

end Sys2Proof.Config
end

