-- ==== Sys2Proof/Machine/HostSyntax.lean ====
section
/-!
DEFINITION. What the host can do to the block: the bus operations of spec/30_encoding.md R68, the names of the
registers (spec/10_state.md R11), the two buffers (spec/20_memory.md R40) and the direction of a transform
(spec/42_transform.md R104).
-/

namespace Sys2Proof.Machine

/-- The two byte-addressed spaces (spec/20_memory.md R40). -/
inductive Space where
  /-- The key buffer (spec/10_state.md R31). -/
  | kbuf
  /-- The data buffer (spec/10_state.md R32). -/
  | dbuf
deriving DecidableEq, Repr

/-- The eleven host-visible registers, in the order of the table of spec/10_state.md R11. -/
inductive RegName where
  | cmd
  | status
  | errcode
  | errsub
  | errexp
  | erract
  | kbufLen
  | dlen
  | klen
  | jfreq
  | jlen
deriving DecidableEq, Repr

/-- Direction of a transform, bit 0 of its command word: "0 Encrypt, 1 Decrypt" (spec/30_encoding.md R64). -/
inductive Direction where
  | encrypt
  | decrypt
deriving DecidableEq, Repr

/-- One operation of the host, as a bus operation (spec/30_encoding.md R68). Widths other than 32 bits for a
register and one byte for a buffer cell cannot be written down (spec/93_implementation_defined.md U3). -/
inductive HostOp where
  /-- A 32-bit write to the register at byte offset `off` (`WR`, `CMDW`, `KDEC`, `ENC`, `DEC`). -/
  | writeReg (off : Nat) (v : Word)
  /-- A 32-bit read of the register at byte offset `off` (`RD`). -/
  | readReg (off : Nat)
  /-- A byte write to index `addr` of a buffer (`WB`). -/
  | writeByte (sp : Space) (addr : Nat) (v : Byte)
  /-- A byte read of index `addr` of a buffer (`RB`). -/
  | readByte (sp : Space) (addr : Nat)
  /-- Assert and release the reset input (`RESET`). -/
  | reset
deriving DecidableEq, Repr

/-- What a host read returns (spec/10_state.md R12, spec/20_memory.md R42). -/
inductive HostAnswer where
  /-- The 32-bit value of a register. -/
  | reg (v : Word)
  /-- The byte of a buffer cell. -/
  | byte (v : Byte)
deriving DecidableEq, Repr

end Sys2Proof.Machine
end

