-- ==== Sys2Proof/Machine/State.lean ====
section
/-!
DEFINITION. The state of one PJV engine (spec/10_state.md R10), the host's side of its interface, the reasons a
step can stop, and the state after reset (spec/10_state.md R34).
-/

namespace Sys2Proof.Machine

/-- A buffer: the cells that hold a value, addresses strictly rising. A cell that is not listed holds no value
(spec/10_state.md R31, R32). -/
abbrev Memory := List Host.Cell

/-- What an unlisted cell reads as: no value (spec/10_state.md R31; notes/assumptions/6.md). -/
def unlistedCell : Option Byte := none

/-- Why the machine stops with a fault. -/
inductive Fault where
  /-- Raised by KDEC, ENC or DEC when it reads a cell that holds no value: "unspecified behaviour, to be modelled as
  a fault" (spec/93_implementation_defined.md U1). Safe: nothing can be proved past it. -/
  | noValue (sp : Space) (addr : Nat)
deriving DecidableEq, Repr

/-- Why an operation has no meaning in the model. -/
inductive Refusal where
  /-- Raised by exec's arm of an instruction without a meaning; no arm raises it. Safe. -/
  | notModelled (mnemonic : String)
  /-- Raised by a host access to a register offset that spec/10_state.md R11 does not list: "refuse"
  (spec/93_implementation_defined.md U3). Safe: nothing can be proved past it. -/
  | unlistedRegister (off : Nat)
  /-- Raised by a host access to a buffer index at or above the capacity: "refuse"
  (spec/93_implementation_defined.md U3). Safe: nothing can be proved past it. -/
  | beyondCapacity (sp : Space) (addr : Nat)
deriving DecidableEq, Repr

/-- The MODEL's own record of the host agent (spec/10_state.md R10: the host "owns no state of the block"):
what it will do next, what its reads returned, and the index of the next free byte (notes/assumptions/10.md,
11.md, 7.md). -/
structure HostPort where
  /-- The operations the host has still to issue, in order (spec/20_memory.md R48). -/
  pending   : List HostOp
  /-- What the host's reads returned, newest first. -/
  answers   : List HostAnswer
  /-- How many reads of cells without a value have been answered. -/
  freeReads : Nat
deriving DecidableEq, Repr

/-- The state of the block (spec/10_state.md R10), its parameters and the host's side. -/
structure State where
  /-- The instance's parameters (spec/00_scope.md R6); written by nothing. -/
  cfg     : Config.Params
  /-- STATUS bit 0: a decoded key exists (spec/10_state.md R17). -/
  kvalid  : Bool
  /-- STATUS bit 1: the last command completed (spec/10_state.md R27). -/
  ok      : Bool
  /-- STATUS bit 2: the last command failed (spec/10_state.md R27). -/
  err     : Bool
  /-- ERRCODE, the error kind (spec/10_state.md R28). -/
  errcode : BitVec 2
  /-- ERRSUB, the sub-cause (spec/10_state.md R29). -/
  errsub  : BitVec 4
  /-- ERREXP, the expected value (spec/10_state.md R30). -/
  errexp  : Word
  /-- ERRACT, the actual value (spec/10_state.md R30). -/
  erract  : Word
  /-- KBUF_LEN (spec/10_state.md R18). -/
  kbufLen : Word
  /-- DLEN (spec/10_state.md R25). -/
  dlen    : Word
  /-- KLEN, the stored content; the host reads 0 while KVALID = 0 (spec/10_state.md R13). -/
  klen    : BitVec 16
  /-- JFREQ, the stored content (spec/10_state.md R14). -/
  jfreq   : Byte
  /-- JLEN, the stored content (spec/10_state.md R15). -/
  jlen    : BitVec 24
  /-- KBUF (spec/10_state.md R31). -/
  kbuf    : Memory
  /-- DBUF (spec/10_state.md R32). -/
  dbuf    : Memory
  /-- POS, the key cursor (spec/10_state.md R19). -/
  pos     : Nat
  /-- CNT, the steps until the next jump (spec/10_state.md R20). -/
  cnt     : Nat
  /-- POL, the polarity (spec/10_state.md R21). -/
  pol     : Bool
  /-- JINT, the jump interval (spec/10_state.md R22). -/
  jint    : Nat
  /-- JDIST, the jump distance (spec/10_state.md R23). -/
  jdist   : Nat
  /-- PASS, the outer loop counter (spec/10_state.md R24). -/
  pass    : Nat
  /-- IDX, the byte index (spec/10_state.md R24). -/
  idx     : Nat
  /-- The host's side of the interface (the model's own). -/
  host    : HostPort
deriving DecidableEq, Repr

/-- The block right after reset (spec/10_state.md R34), for given parameters and host side. The stored content of
KLEN, JFREQ, JLEN and the internal registers are "unspecified and unobservable": 0 is the model's choice
(notes/assumptions/3.md, 4.md). -/
def State.afterReset (cfg : Config.Params) (host : HostPort) : State :=
  { cfg := cfg
    kvalid := false, ok := false, err := false
    errcode := 0, errsub := 0, errexp := 0, erract := 0
    kbufLen := 0, dlen := 0
    klen := 0, jfreq := 0, jlen := 0
    kbuf := [], dbuf := []
    pos := 0, cnt := 0, pol := false, jint := 0, jdist := 0, pass := 0, idx := 0
    host := host }

/-- The machine after reset: spec/10_state.md R34 with the open parameters of `Config.params` and a host that has
issued nothing. -/
def State.reset : State :=
  State.afterReset Config.params { pending := [], answers := [], freeReads := 0 }

/-- The outcome of an operation on the machine. -/
abbrev Result := Host.Outcome State Fault Refusal

end Sys2Proof.Machine
end

