-- ==== Sys2Proof/Machine/Ops.lean ====
section
/-!
DEFINITION. The shared operations: reading and writing a buffer cell, a command's read of a cell, withdrawing the
decoded key, ending a command with an error and completing it. Raising an error is this block's form of taking an
exception (spec/60_exceptions.md R153); it has no return operation (R157).
-/

namespace Sys2Proof.Machine

/-- The value of cell `a`, if it holds one. -/
def Memory.read : Memory → Nat → Option Byte
  | [], _ => unlistedCell
  | (b, v) :: m, a => if a = b then some v else Memory.read m a

/-- Give cell `a` the value `v`, keeping the addresses rising. No value equals "no value", so a write never removes
an entry. -/
def Memory.write : Memory → Nat → Byte → Memory
  | [], a, v => [(a, v)]
  | (b, w) :: m, a, v =>
    if a < b then (a, v) :: (b, w) :: m
    else if a = b then (a, v) :: m
    else (b, w) :: Memory.write m a v

/-- Addresses strictly rising from `lo` and below `cap`. -/
def Memory.wfFrom (cap : Nat) : Nat → Memory → Bool
  | _, [] => true
  | lo, (a, _) :: m => decide (lo ≤ a) && decide (a < cap) && Memory.wfFrom cap (a + 1) m

/-- The canonical form of a buffer of capacity `cap`: addresses strictly rising, every one an existing cell. -/
def Memory.wf (cap : Nat) (m : Memory) : Bool := Memory.wfFrom cap 0 m

/-- The buffer a space names. -/
def bufferOf (sp : Space) (s : State) : Memory :=
  match sp with
  | .kbuf => s.kbuf
  | .dbuf => s.dbuf

/-- The capacity of a space: 65543 for KBUF, DMAX for DBUF (spec/20_memory.md R40). -/
def capacityOf (sp : Space) (s : State) : Nat :=
  match sp with
  | .kbuf => Config.kcap
  | .dbuf => s.cfg.dmax.toNat

/-- `MemRead(space, addr, 1)` inside a command: go on with the cell's byte; a cell that holds no value is the fault
of spec/93_implementation_defined.md U1 (spec/10_state.md R31). -/
def withCell (sp : Space) (addr : Nat) (s : State) (k : Byte → Result) : Result :=
  match Memory.read (bufferOf sp s) addr with
  | some v => k v
  | none => .fault (.noValue sp addr)

/-- Clear KVALID: KLEN, JFREQ and JLEN then read 0, their stored content stays (spec/10_state.md R17;
notes/assumptions/14.md). -/
def withdrawKey (s : State) : State := { s with kvalid := false }

/-- `raise Error(code, sub, exp, act)`: what it writes, "and nothing else" (spec/60_exceptions.md R153). -/
def raiseError (kind : ErrKind) (sub : ErrSub) (exp act : Word) (s : State) : State :=
  { s with
    errcode := errKindCode kind, errsub := errSubCode sub, errexp := exp, erract := act,
    err := true, ok := false }

/-- `complete`: what it writes, "and nothing else beyond what the command's own rule wrote"
(spec/60_exceptions.md R154). -/
def complete (s : State) : State :=
  { s with errcode := 0, errsub := 0, errexp := 0, erract := 0, err := false, ok := true }

end Sys2Proof.Machine
end

