-- ==== Sys2Proof/Machine/Operands.lean ====
section
/-!
DEFINITION. The operands of the commands: the big-endian fields of a Key (spec/30_encoding.md R61), the view of the
key block (spec/10_state.md R16), the two computed addresses (spec/20_memory.md R46) and a transform's length.
-/

namespace Sys2Proof.Machine

/-- `key_len = b[1] * 256 + b[2]`, the byte at the lower offset the more significant (spec/20_memory.md R43). -/
def be16 (hi lo : Byte) : BitVec 16 := BitVec.ofNat 16 (hi.toNat * 256 + lo.toNat)

/-- `jump_length = b[4] * 65536 + b[5] * 256 + b[6]` (spec/20_memory.md R43). -/
def be24 (b2 b1 b0 : Byte) : BitVec 24 :=
  BitVec.ofNat 24 (b2.toNat * 65536 + b1.toNat * 256 + b0.toNat)

/-- The KBUF index of key-block byte `j`: `block[j] = KBUF[7 + j]` (spec/10_state.md R16). -/
def blockAddr (j : Nat) : Nat := Config.blockOffset + j

/-- The key-block address of the byte step at hand, `7 + POS` (spec/20_memory.md R46). -/
def keyByteAddr (s : State) : Nat := blockAddr s.pos

/-- The data address of the byte step at hand, `IDX` (spec/20_memory.md R46). -/
def dataAddr (s : State) : Nat := s.idx

/-- The data length N of a transform (spec/42_transform.md R100). -/
def dataLen (s : State) : Nat := s.dlen.toNat

/-- The key length L of a transform (spec/42_transform.md R100). -/
def keyLen (s : State) : Nat := s.klen.toNat

/-- `block[j]`, the key block of the DecodedKey: defined for `0 <= j < KLEN` while KVALID = 1
(spec/10_state.md R16). -/
def keyBlock (s : State) (j : Nat) : Option Byte :=
  if s.kvalid = true ∧ j < keyLen s then Memory.read s.kbuf (blockAddr j) else none

end Sys2Proof.Machine
end

