-- ==== Sys2Proof/Machine/KeyDecode.lean ====
section
/-!
DEFINITION. KDEC, the key-format decoder (spec/40_key_decode.md R80).
-/

namespace Sys2Proof.Machine

/-- A failed check of KDEC: every one is InvalidFormat (spec/40_key_decode.md R80, R82). -/
def failKdec (sub : ErrSub) (exp act : Word) (s : State) : Result :=
  .next (raiseError .invalidFormat sub exp act s)

/-- KDEC, in the order of the pseudocode of spec/40_key_decode.md R80: KVALID withdrawn first, then TRUNCATED,
HEADER, LENGTH, KEYLEN_RANGE, FINALIZER, then the decoded key. The comparison with `8 + kl` is on integers. -/
def execKdec (s : State) : Host.Outcome State Fault Refusal :=
  let n := s.kbufLen
  let s := withdrawKey s
  if n.toNat < Config.keyOverhead then failKdec .truncated 8 n s else
  withCell .kbuf 0 s fun h =>
  if h ≠ Config.header then failKdec .header 0xFF (h.setWidth 32) s else
  withCell .kbuf 1 s fun hi =>
  withCell .kbuf 2 s fun lo =>
  let kl := be16 hi lo
  if n.toNat ≠ Config.keyOverhead + kl.toNat then
    failKdec .length (BitVec.ofNat 32 (Config.keyOverhead + kl.toNat)) n s else
  if kl.toNat < Config.klenMin then failKdec .keylenRange 4 (kl.setWidth 32) s else
  withCell .kbuf (blockAddr kl.toNat) s fun f =>
  if f ≠ Config.finalizer then failKdec .finalizer 0x00 (f.setWidth 32) s else
  withCell .kbuf 3 s fun jf =>
  withCell .kbuf 4 s fun b2 =>
  withCell .kbuf 5 s fun b1 =>
  withCell .kbuf 6 s fun b0 =>
  .next (complete { s with klen := kl, jfreq := jf, jlen := be24 b2 b1 b0, kvalid := true })

end Sys2Proof.Machine
end

