-- ==== Sys2Proof/Machine/Flags.lean ====
section
/-!
DEFINITION. The flags: how polarity selects add or subtract (spec/42_transform.md R104), the byte arithmetic that
records no carry (R105), and STATUS as the host reads it (spec/10_state.md R27).
-/

namespace Sys2Proof.Machine

/-- The direction bit: 0 Encrypt, 1 Decrypt (spec/30_encoding.md R64). -/
def dirBit : Direction → Bool
  | .encrypt => false
  | .decrypt => true

/-- `Adds(dir, POL) = (dir = POL)` (spec/42_transform.md R104). -/
def adds (dir : Direction) (pol : Bool) : Bool := dirBit dir == pol

/-- The data byte after a byte step: `(d + k) mod 256` or `(d - k) mod 256`, no carry or borrow recorded
(spec/42_transform.md R104, R105). -/
def mixByte (dir : Direction) (pol : Bool) (d k : Byte) : Byte :=
  if adds dir pol then d + k else d - k

/-- STATUS: bit 0 KVALID, bit 1 OK, bit 2 ERR, "Bits 31 to 3 read 0" (spec/10_state.md R27). -/
def statusWord (s : State) : Word :=
  BitVec.ofNat 32 (s.kvalid.toNat + 2 * s.ok.toNat + 4 * s.err.toNat)

end Sys2Proof.Machine
end

