-- ==== Sys2Proof/Machine/Schedule.lean ====
section
/-!
DEFINITION. The jump schedule (spec/41_jump_schedule.md): jump_interval under both evaluations of the division by
255, and jump_distance. All of it is arithmetic on non-negative integers; nothing is truncated (R90).
-/

namespace Sys2Proof.Machine

/-- `JINT <- max((jf * q) div 255, 2)` with `q = N div 16` (spec/41_jump_schedule.md R90). -/
def jumpIntervalExact (n jf : Nat) : Nat :=
  max (jf * (n / Config.jiBlock) / Config.jiDiv) Config.jiMin

/-- The integer nearest to `a / b`, ties to even (spec/41_jump_schedule.md R92, "rounded to nearest even"). -/
def roundNearestEven (a b : Nat) : Nat :=
  if 2 * (a % b) > b ∨ (2 * (a % b) = b ∧ a / b % 2 = 1) then a / b + 1 else a / b

/-- A non-negative binary64 value `mant / 2 ^ scale`. -/
structure Dyadic where
  mant  : Nat
  scale : Nat
deriving DecidableEq, Repr

/-- `fl(a / b)`: the rational rounded to 53 significant bits, nearest even, for `0 <= a / b < 2 ^ 53`, which holds
wherever R92 uses it (no overflow and no subnormal can occur there). -/
def fl (a b : Nat) : Dyadic :=
  if a = 0 then ⟨0, 0⟩
  else
    let k := 53 + Nat.log2 b - Nat.log2 a
    let scale := if 2 ^ 52 * b ≤ a * 2 ^ (k - 1) then k - 1 else k
    ⟨roundNearestEven (a * 2 ^ scale) b, scale⟩

/-- The non-default evaluation: `r <- fl(jf / 255)`, `p <- fl(r * q)`, `JINT <- max(trunc(p), 2)`
(spec/41_jump_schedule.md R92). -/
def jumpIntervalBinary64 (n jf : Nat) : Nat :=
  let r := fl jf Config.jiDiv
  let p := fl (r.mant * (n / Config.jiBlock)) (2 ^ r.scale)
  max (p.mant / 2 ^ p.scale) Config.jiMin

/-- `jump_interval(N, jf)` under the instance's `JI_EVAL` (spec/41_jump_schedule.md R90, R92). -/
def jumpInterval (ev : Config.JiEval) (n jf : Nat) : Nat :=
  match ev with
  | .exact => jumpIntervalExact n jf
  | .binary64 => jumpIntervalBinary64 n jf

/-- `JDIST <- (jl div L) + L` (spec/41_jump_schedule.md R93). -/
def jumpDistance (jl l : Nat) : Nat := jl / l + l

end Sys2Proof.Machine
end

