-- ==== Sys2Proof/Machine/Transform.lean ====
section
/-!
DEFINITION. ENC and DEC, the cipher engine (spec/42_transform.md R100 to R105), in the step form, which "is the
normative one" (R106).
-/

namespace Sys2Proof.Machine

/-- Step d of a byte step: when CNT has reached 0, flip POL, add JDIST to POS, reload CNT
(spec/42_transform.md R103). -/
def jumpIfDue (s : State) : State :=
  if s.cnt = 0 then { s with pol := !s.pol, pos := s.pos + s.jdist, cnt := s.jint } else s

/-- Step e of a byte step: `if POS >= L then POS <- POS mod L` (spec/42_transform.md R103). -/
def wrapCursor (s : State) : State :=
  if s.pos ≥ keyLen s then { s with pos := s.pos % keyLen s } else s

/-- Steps b to e of a byte step, with the key byte `k` and the data byte `d` read (spec/42_transform.md R103). -/
def applyByte (dir : Direction) (k d : Byte) (s : State) : State :=
  wrapCursor (jumpIfDue { s with
    dbuf := Memory.write s.dbuf (dataAddr s) (mixByte dir s.pol d k)
    cnt := s.cnt - 1, pos := s.pos + 1 })

/-- `ByteStep(dir)`: read `k` under the cursor and `d` at IDX, then steps b to e (spec/42_transform.md R103). -/
def byteStep (dir : Direction) (s : State) : Result :=
  withCell .kbuf (keyByteAddr s) s fun k =>
  withCell .dbuf (dataAddr s) s fun d =>
  .next (applyByte dir k d s)

/-- The one way PASS and IDX advance: "IDX from 0 up to DLEN - 1 by 1, then PASS by 1 and IDX back to 0, until PASS
would become 10" (spec/10_state.md R24). After the last byte step both keep their values (notes/assumptions/5.md). -/
def advance (s : State) : State :=
  if s.idx + 1 < dataLen s then { s with idx := s.idx + 1 }
  else if s.pass + 1 < Config.rounds then { s with pass := s.pass + 1, idx := 0 }
  else s

/-- `n` byte steps, PASS and IDX advancing after each (spec/42_transform.md R100, the loop nest). -/
def runByteSteps (dir : Direction) : Nat → State → Result
  | 0, s => .next s
  | n + 1, s =>
    match byteStep dir s with
    | .next s' => runByteSteps dir n (advance s')
    | .fault f => .fault f
    | .refused r => .refused r

/-- What a transform writes before its first byte step: the schedule, computed once, and the cipher state
(spec/42_transform.md R100, spec/41_jump_schedule.md R95). -/
def startTransform (s : State) : State :=
  { s with
    jint := jumpInterval s.cfg.jiEval (dataLen s) s.jfreq.toNat
    jdist := jumpDistance s.jlen.toNat (keyLen s)
    pos := 0
    cnt := jumpInterval s.cfg.jiEval (dataLen s) s.jfreq.toNat
    pol := false, pass := 0, idx := 0 }

/-- End a transform without error once its byte steps are done; a fault inside them is the command's fault. -/
def finishTransform : Result → Result
  | .next s => .next (complete s)
  | .fault f => .fault f
  | .refused r => .refused r

/-- ENC and DEC: NOKEY, then DLEN_RANGE, then 10 * DLEN byte steps (spec/42_transform.md R100 to R102). -/
def transform (dir : Direction) (s : State) : Result :=
  if s.kvalid = false then .next (raiseError .invalidFormat .nokey 0 0 s)
  else if s.cfg.dmax.toNat < dataLen s then
    .next (raiseError .invalidArgument .dlenRange s.cfg.dmax s.dlen s)
  else finishTransform (runByteSteps dir (Config.rounds * dataLen s) (startTransform s))

/-- ENC: the transform with direction Encrypt (spec/42_transform.md R100). -/
def execEnc (s : State) : Host.Outcome State Fault Refusal := transform .encrypt s

/-- DEC: the transform with direction Decrypt (spec/42_transform.md R100). -/
def execDec (s : State) : Host.Outcome State Fault Refusal := transform .decrypt s

end Sys2Proof.Machine
end

