-- ==== Sys2Proof/Machine/HostAccess.lean ====
section
/-!
DEFINITION. What a host operation does: register access (spec/10_state.md R12), the CMD write that runs a command
(R26), buffer access (spec/20_memory.md R42) and the reset input (spec/70_reset_and_hazards.md R170).
-/

namespace Sys2Proof.Machine

/-- The register map: byte offset and name (spec/10_state.md R11). -/
def registerMap : List (Nat × RegName) :=
  [(0x00, .cmd), (0x04, .status), (0x08, .errcode), (0x0C, .errsub), (0x10, .errexp), (0x14, .erract),
   (0x18, .kbufLen), (0x1C, .dlen), (0x20, .klen), (0x24, .jfreq), (0x28, .jlen)]

/-- The register at a byte offset, if spec/10_state.md R11 lists one. -/
def regAt (off : Nat) : Option RegName := registerMap.lookup off

/-- The byte offset of a register (spec/10_state.md R11). -/
def regOffset : RegName → Nat
  | .cmd => 0x00
  | .status => 0x04
  | .errcode => 0x08
  | .errsub => 0x0C
  | .errexp => 0x10
  | .erract => 0x14
  | .kbufLen => 0x18
  | .dlen => 0x1C
  | .klen => 0x20
  | .jfreq => 0x24
  | .jlen => 0x28

/-- A decoded-key register as the host reads it: 0 while KVALID = 0 (spec/10_state.md R13 to R15). -/
def whileKeyValid (s : State) (v : Word) : Word := if s.kvalid = true then v else 0

/-- `HostReadReg`: the 32-bit value, narrower contents with zeros above; CMD reads 0 (spec/10_state.md R11, R12). -/
def readRegister (r : RegName) (s : State) : Word :=
  match r with
  | .cmd => 0
  | .status => statusWord s
  | .errcode => s.errcode.setWidth 32
  | .errsub => s.errsub.setWidth 32
  | .errexp => s.errexp
  | .erract => s.erract
  | .kbufLen => s.kbufLen
  | .dlen => s.dlen
  | .klen => whileKeyValid s (s.klen.setWidth 32)
  | .jfreq => whileKeyValid s (s.jfreq.setWidth 32)
  | .jlen => whileKeyValid s (s.jlen.setWidth 32)

/-- An illegal command word: `raise Error(InvalidArgument, BADCMD, exp = 0, act = the written word)` and nothing
else (spec/30_encoding.md R65). -/
def illegalCommand (w : Word) (s : State) : State := raiseError .invalidArgument .badcmd 0 w s

/-- A host write of `w` to CMD: the command that `w` encodes, run to its end, or BADCMD. The word is not stored
(spec/10_state.md R26). -/
def issueCommand (w : Word) (s : State) : Result :=
  match decode w with
  | .ok i => exec i s
  | .error _ => .next (illegalCommand w s)

/-- `HostWriteReg`: CMD starts a command, KBUF_LEN and DLEN store, a read-only register ignores the write
(spec/10_state.md R12, R18, R25). A write to KBUF_LEN withdraws the decoded key (R17). -/
def writeRegister (r : RegName) (v : Word) (s : State) : Result :=
  match r with
  | .cmd => issueCommand v s
  | .kbufLen => .next (withdrawKey { s with kbufLen := v })
  | .dlen => .next { s with dlen := v }
  | .status => .next s
  | .errcode => .next s
  | .errsub => .next s
  | .errexp => .next s
  | .erract => .next s
  | .klen => .next s
  | .jfreq => .next s
  | .jlen => .next s

/-- The value a host write gives a cell; a write to KBUF withdraws the decoded key, "whatever the address and even
if the value written equals the old one" (spec/20_memory.md R42, spec/10_state.md R17). -/
def storeCell (sp : Space) (addr : Nat) (v : Byte) (s : State) : State :=
  match sp with
  | .kbuf => withdrawKey { s with kbuf := Memory.write s.kbuf addr v }
  | .dbuf => { s with dbuf := Memory.write s.dbuf addr v }

/-- Record what a host read returned (notes/assumptions/11.md). -/
def answer (a : HostAnswer) (s : State) : State :=
  { s with host := { s.host with answers := a :: s.host.answers } }

/-- `HostReadByte` of an existing cell: its value, or a free byte where it holds none
(spec/20_memory.md R42, spec/93_implementation_defined.md U2). -/
def loadCell (sp : Space) (addr : Nat) (s : State) : State :=
  match Memory.read (bufferOf sp s) addr with
  | some v => answer (.byte v) s
  | none =>
    answer (.byte (Config.freeReadByte s.host.freeReads))
      { s with host := { s.host with freeReads := s.host.freeReads + 1 } }

/-- `RESET`: the block in the state of spec/10_state.md R34; the parameters and the host stay
(spec/70_reset_and_hazards.md R170; notes/assumptions/12.md). -/
def resetBlock (s : State) : State := State.afterReset s.cfg s.host

/-- One host operation (spec/30_encoding.md R68). An access to an unlisted register or beyond a buffer's capacity
is refused before the state is touched (spec/93_implementation_defined.md U3). -/
def hostStep (op : HostOp) (s : State) : Result :=
  match op with
  | .writeReg off v =>
    match regAt off with
    | some r => writeRegister r v s
    | none => .refused (.unlistedRegister off)
  | .readReg off =>
    match regAt off with
    | some r => .next (answer (.reg (readRegister r s)) s)
    | none => .refused (.unlistedRegister off)
  | .writeByte sp addr v =>
    if addr < capacityOf sp s then .next (storeCell sp addr v s) else .refused (.beyondCapacity sp addr)
  | .readByte sp addr =>
    if addr < capacityOf sp s then .next (loadCell sp addr s) else .refused (.beyondCapacity sp addr)
  | .reset => .next (resetBlock s)

/-- Take the host's next operation, if there is one: the operation and the state with it taken. -/
def takeOp (s : State) : Option (HostOp × State) :=
  match s.host.pending with
  | [] => none
  | op :: rest => some (op, { s with host := { s.host with pending := rest } })

/-- Put an operation where the next step takes its operation. -/
def putOp (op : HostOp) (s : State) : State :=
  { s with host := { s.host with pending := op :: s.host.pending } }

end Sys2Proof.Machine
end

