-- ==== Sys2Proof/Machine/Step.lean ====
section
/-!
DEFINITION. One step of the machine: the host's next operation takes effect, a command whole (spec/00_scope.md R7,
R9; spec/20_memory.md R48). "The engine does nothing unless the host has issued a command" (R7): with no operation
pending a step changes nothing.
-/

namespace Sys2Proof.Machine

/-- One step (spec/20_memory.md R48). -/
def step (s : State) : Host.Outcome State Fault Refusal :=
  match takeOp s with
  | none => .next s
  | some (op, s') => hostStep op s'

/-- `s` with the host about to write the command word of these bits to CMD, so that the next step runs it
(spec/30_encoding.md R70: "a command is issued only by a write to CMD"; notes/assumptions/10.md). -/
def State.withFetchWord (s : State) (nbits w : Nat) : State :=
  putOp (.writeReg (regOffset .cmd) (tableWord nbits w)) s

end Sys2Proof.Machine
end

