-- ==== Sys2Proof/Machine/HostErrors.lean ====
section
/-!
DEFINITION. How a host procedure ends, and what it tells its caller when it fails: a typed error with the expected and
the actual value (spec/43_host_procedures.md R132). Outside the block; no step depends on it.
-/

namespace Sys2Proof.Machine

/-- The values a host procedure checks against a range before it uses the block (spec/43_host_procedures.md R121,
R123, R124, R128). -/
inductive CheckedValue where
  | keyLength
  | jumpFrequency
  | jumpLength
  | passphraseLength
  | keySourceLength
  | dataLength
deriving DecidableEq, Repr

/-- What a diagnostic message is formed from: the "expected vs. actual values" of spec/43_host_procedures.md R132. -/
inductive Cause where
  /-- The block's command failed: ERRSUB, ERREXP and ERRACT as the host read them. -/
  | block (sub expected actual : Word)
  /-- A value outside `lo` to `hi`, both included. -/
  | outside (what : CheckedValue) (lo hi actual : Int)
  /-- The underlying storage failed on a read or a write (R124, R129). -/
  | storage
  /-- No separator of the lengths tried meets both conditions (R125). -/
  | noSeparator (shortest longest : Nat)
  /-- A line is expected, the input has none (R129). -/
  | firstLineAbsent
  /-- The first line is empty and the codec does not accept an empty separator (notes/assumptions/19.md). -/
  | emptySeparator
  /-- A later line is empty and the codec does not accept one (notes/assumptions/19.md). -/
  | emptyLine
  /-- The last line has no terminator and the codec does not accept that (notes/assumptions/19.md). -/
  | unterminatedLine
deriving DecidableEq, Repr

/-- A typed error for the caller (spec/43_host_procedures.md R132). -/
structure ErrorReport where
  kind  : ErrKind
  cause : Cause
deriving DecidableEq, Repr

/-- The report of an argument outside its documented domain (spec/60_exceptions.md R150). -/
def argumentOutside (what : CheckedValue) (lo hi actual : Int) : ErrorReport :=
  { kind := .invalidArgument, cause := .outside what lo hi actual }

/-- The report of a failed read or write: IOFailure, made by the host (spec/60_exceptions.md R152). -/
def storageFailure : ErrorReport := { kind := .ioFailure, cause := .storage }

/-- The error kind a host reads off ERRCODE: 1 InvalidArgument, 2 InvalidFormat (spec/43_host_procedures.md R132).
3 is IOFailure by spec/10_state.md R28, which the block never raises (spec/60_exceptions.md R152), and no failed
command leaves 0. -/
def kindOfErrcode (code : Word) : ErrKind :=
  if code = 1 then .invalidArgument else if code = 2 then .invalidFormat else .ioFailure

/-- The report of a failed command, from the values of ERRCODE, ERRSUB, ERREXP and ERRACT
(spec/43_host_procedures.md R132). -/
def blockReport (code sub expected actual : Word) : ErrorReport :=
  { kind := kindOfErrcode code, cause := .block sub expected actual }

/-- How a host procedure over states `σ` ends: done with a value, failed with an error reported to the caller
(spec/43_host_procedures.md R132), or stopped because the block did; then the state is the one in which the stopping
operations were issued. -/
inductive ProcEnd (σ α : Type) where
  | done (a : α) (s : σ)
  | failed (report : ErrorReport) (s : σ)
  | stopped (f : Fault) (s : σ)
  | refused (r : Refusal) (s : σ)

/-- Go on with a procedure's value; an error is never caught (spec/43_host_procedures.md R132). -/
def ProcEnd.andThen {σ α β : Type} : ProcEnd σ α → (α → σ → ProcEnd σ β) → ProcEnd σ β
  | .done a s, k => k a s
  | .failed report s, _ => .failed report s
  | .stopped f s, _ => .stopped f s
  | .refused r s, _ => .refused r s

/-- Change the state of an end, whichever end it is. -/
def ProcEnd.mapState {σ τ α : Type} (g : σ → τ) : ProcEnd σ α → ProcEnd τ α
  | .done a s => .done a (g s)
  | .failed report s => .failed report (g s)
  | .stopped f s => .stopped f (g s)
  | .refused r s => .refused r (g s)

/-- Change the state of every end but `done`. -/
def ProcEnd.mapUndone {σ α : Type} (g : σ → σ) : ProcEnd σ α → ProcEnd σ α
  | .done a s => .done a s
  | .failed report s => .failed report (g s)
  | .stopped f s => .stopped f (g s)
  | .refused r s => .refused r (g s)

/-- The state of an end. -/
def ProcEnd.state {σ α : Type} : ProcEnd σ α → σ
  | .done _ s => s
  | .failed _ s => s
  | .stopped _ s => s
  | .refused _ s => s

end Sys2Proof.Machine
end

