-- ==== Sys2Proof/Machine/KeyFormat.lean ====
section
/-!
DEFINITION. Format K, the binary layout of a Key, read in its inverse direction: KeyEncode (spec/30_encoding.md R60,
R71). The forward reading is the KDEC command (Machine/KeyDecode.lean).
-/

namespace Sys2Proof.Machine

/-- `KeyEncode(L, jf, jl, blk)` with `L = len(blk)`: header, key_len and jump_length big-endian, block, finalizer
(spec/30_encoding.md R71). -/
def keyEncode (jf : Byte) (jl : BitVec 24) (blk : List Byte) : List Byte :=
  [Config.header,
   BitVec.ofNat 8 (blk.length / 256), BitVec.ofNat 8 (blk.length % 256),
   jf,
   BitVec.ofNat 8 (jl.toNat / 65536), BitVec.ofNat 8 (jl.toNat / 256 % 256), BitVec.ofNat 8 (jl.toNat % 256)]
  ++ blk ++ [Config.finalizer]

end Sys2Proof.Machine
end

