-- ==== Sys2Proof/Machine/HostPrograms.lean ====
section
/-!
DEFINITION. The host-program notation as lists of host operations: commands, LOADK, LOADD, READD
(spec/30_encoding.md R68, R69), and the effect of a list of them.
-/

namespace Sys2Proof.Machine

/-- `KDEC`, `ENC` or `DEC`: a write of the command word to CMD (spec/30_encoding.md R68). -/
def issueOp (i : Instr) : HostOp := .writeReg (regOffset .cmd) (encode i)

/-- `WR NAME, v` (spec/30_encoding.md R68). -/
def writeOp (r : RegName) (v : Word) : HostOp := .writeReg (regOffset r) v

/-- `RD NAME` (spec/30_encoding.md R68). -/
def readOp (r : RegName) : HostOp := .readReg (regOffset r)

/-- `WB space, base, b0` ... `WB space, base + n - 1, b(n-1)` (spec/30_encoding.md R69). -/
def storeOps (sp : Space) : Nat → List Byte → List HostOp
  | _, [] => []
  | base, b :: bs => .writeByte sp base b :: storeOps sp (base + 1) bs

/-- `LOADK b0 ... b(n-1)`: the byte writes, then `WR KBUF_LEN, n` (spec/30_encoding.md R69). -/
def loadK (bytes : List Byte) : List HostOp :=
  storeOps .kbuf 0 bytes ++ [writeOp .kbufLen (BitVec.ofNat 32 bytes.length)]

/-- `LOADD b0 ... b(n-1)`: the byte writes, then `WR DLEN, n` (spec/30_encoding.md R69). -/
def loadD (bytes : List Byte) : List HostOp :=
  storeOps .dbuf 0 bytes ++ [writeOp .dlen (BitVec.ofNat 32 bytes.length)]

/-- `READD n`: `RB DBUF, 0` ... `RB DBUF, n - 1` (spec/30_encoding.md R69). -/
def readD (n : Nat) : List HostOp := (List.range n).map (HostOp.readByte .dbuf)

/-- The command of a direction: ENC or DEC (spec/30_encoding.md R64). -/
def commandOf : Direction → Instr
  | .encrypt => .enc
  | .decrypt => .dec

/-- `decode_key(bytes)` up to its STATUS read: `LOADK bytes; KDEC; RD STATUS` (spec/30_encoding.md R69). -/
def decodeKeyOps (bytes : List Byte) : List HostOp := loadK bytes ++ [issueOp .kdec, readOp .status]

/-- The reads that end `decode_key` on success: `RD KLEN`, `RD JFREQ`, `RD JLEN` (spec/30_encoding.md R69). -/
def keyFieldReads : List HostOp := [readOp .klen, readOp .jfreq, readOp .jlen]

/-- The reads that end `decode_key` on failure: `RD ERRCODE`, `RD ERRSUB`, `RD ERREXP`, `RD ERRACT`
(spec/30_encoding.md R69). -/
def errorRecordReads : List HostOp := [readOp .errcode, readOp .errsub, readOp .errexp, readOp .erract]

/-- `transform(data, key, dir)` up to its STATUS read: `LOADD data; ENC or DEC; RD STATUS`
(spec/30_encoding.md R69). -/
def transformToStatusOps (dir : Direction) (data : List Byte) : List HostOp :=
  loadD data ++ [issueOp (commandOf dir), readOp .status]

/-- `transform(data, key, dir)` with the key already decoded, whole: `LOADD data; ENC or DEC; RD STATUS;
READD len(data)` (spec/30_encoding.md R69). -/
def transformOps (dir : Direction) (data : List Byte) : List HostOp :=
  transformToStatusOps dir data ++ readD data.length

/-- The effect of a list of host operations, in order (spec/20_memory.md R48). -/
def runOps : List HostOp → State → Result
  | [], s => .next s
  | op :: ops, s =>
    match hostStep op s with
    | .next s' => runOps ops s'
    | .fault f => .fault f
    | .refused r => .refused r

/-- `s` with the host about to issue `ops`. -/
def withPending (ops : List HostOp) (s : State) : State :=
  { s with host := { s.host with pending := ops } }

end Sys2Proof.Machine
end

