-- ==== Sys2Proof/Machine/HostProcedures.lean ====
section
/-!
DEFINITION. The host-side procedures of spec/43_host_procedures.md that make, load and use a Key, over the host
operations of the block. They are OUTSIDE the block (spec/00_scope.md R4) and no step depends on them; they are here
so that nothing the spec says is lost (notes/assumptions/18.md, 21.md). Random draws and the encoded passphrase are
arguments.
-/

namespace Sys2Proof.Machine

/-! ## Using the block -/

/-- What the host's reads returned between `s` and `t`, oldest first. -/
def newAnswers (s t : State) : List HostAnswer :=
  (t.host.answers.take (t.host.answers.length - s.host.answers.length)).reverse

/-- Issue host operations and answer what their reads returned. -/
def runHost (ops : List HostOp) (s : State) : ProcEnd State (List HostAnswer) :=
  match runOps ops s with
  | .next t => .done (newAnswers s t) t
  | .fault f => .stopped f s
  | .refused r => .refused r s

/-- The word of a register read. -/
def wordOfAnswer : HostAnswer → Word
  | .reg v => v
  | .byte v => v.setWidth 32

/-- The byte of a buffer read. -/
def byteOfAnswer : HostAnswer → Byte
  | .byte v => v
  | .reg v => v.setWidth 8

/-- The word of the `n`-th of some answers. -/
def wordAt (answers : List HostAnswer) (n : Nat) : Word := wordOfAnswer (answers.getD n (.reg 0))

/-- Read the error record and fail with it (spec/30_encoding.md R69, spec/43_host_procedures.md R132). -/
def failWithRecord {α : Type} (s : State) : ProcEnd State α :=
  (runHost errorRecordReads s).andThen fun as t =>
    .failed (blockReport (wordAt as 0) (wordAt as 1) (wordAt as 2) (wordAt as 3)) t

/-- Issue operations whose last one is `RD STATUS`, and fail if STATUS bit 2, ERR, is 1
(spec/60_exceptions.md R153: "the host learns of the error by reading STATUS"). -/
def runToStatus (ops : List HostOp) (s : State) : ProcEnd State Unit :=
  (runHost ops s).andThen fun as t =>
    if (wordOfAnswer (as.getLastD (.reg 0))).getLsbD 2 then failWithRecord t else .done () t

/-! ## Keys -/

/-- The fields of a decoded key as the host reads them. -/
structure KeyFields where
  klen  : Word
  jfreq : Word
  jlen  : Word
deriving DecidableEq, Repr

/-- `decode_key(bytes)`: `LOADK bytes; KDEC; RD STATUS`, then `RD KLEN`, `RD JFREQ`, `RD JLEN` for the decoded fields,
or the four reads of the error record on failure (spec/30_encoding.md R69). -/
def decodeKey (bytes : List Byte) (s : State) : ProcEnd State KeyFields :=
  (runToStatus (decodeKeyOps bytes) s).andThen fun _ t =>
    (runHost keyFieldReads t).andThen fun as u =>
      .done { klen := wordAt as 0, jfreq := wordAt as 1, jlen := wordAt as 2 } u

/-- A 24-bit value of three bytes, big-endian (spec/43_host_procedures.md R123). -/
def jumpLengthOf (b2 b1 b0 : Byte) : BitVec 24 := be24 b2 b1 b0

/-- `generate_key`: `draw` stands for the `key_len + 4` random bytes, `overrideJf = -1` for no override
(spec/43_host_procedures.md R120 to R122). Which byte becomes which field, and which of several bad arguments is
reported, is not stated (notes/assumptions/18.md); a jump_length override above 24 bits is refused
(notes/assumptions/21.md). -/
def generateKey (draw : Nat → Byte) (klen overrideJf : Int) (overrideJl : Option Int) :
    Except ErrorReport (List Byte) :=
  if klen < Config.klenMin ∨ (Config.klenMax : Int) < klen then
    .error (argumentOutside .keyLength Config.klenMin Config.klenMax klen)
  else if overrideJf ≠ -1 ∧ (overrideJf < 1 ∨ 255 < overrideJf) then
    .error (argumentOutside .jumpFrequency 1 255 overrideJf)
  else
    let jf := if overrideJf = -1 then draw 0 else BitVec.ofInt 8 overrideJf
    let blk := (List.range klen.toNat).map fun j => draw (4 + j)
    match overrideJl with
    | none => .ok (keyEncode jf (jumpLengthOf (draw 1) (draw 2) (draw 3)) blk)
    | some jl =>
      if jl < 0 ∨ 16777215 < jl then .error (argumentOutside .jumpLength 0 16777215 jl)
      else .ok (keyEncode jf (BitVec.ofInt 24 jl) blk)

/-- `convert_key` over the encoded passphrase `p`: the first byte is jump_frequency, the next three jump_length, the
whole of `p` the key block (spec/43_host_procedures.md R123). -/
def convertKey (p : List Byte) : Except ErrorReport (List Byte) :=
  let badLength := argumentOutside .passphraseLength Config.klenMin Config.klenMax p.length
  if p.length < Config.klenMin ∨ Config.klenMax < p.length then .error badLength
  else match p with
    | b0 :: b1 :: b2 :: b3 :: _ => .ok (keyEncode b0 (jumpLengthOf b1 b2 b3) p)
    | _ => .error badLength

/-- `load_key`: `none` is a source that cannot be read, IOFailure without a command; a source longer than KCAP is
reported as InvalidFormat without loading it (notes/assumptions/18.md); otherwise `decode_key`
(spec/43_host_procedures.md R124). -/
def loadKey (source : Option (List Byte)) (s : State) : ProcEnd State (List Byte) :=
  match source with
  | none => .failed storageFailure s
  | some bytes =>
    if Config.kcap < bytes.length then
      .failed { kind := .invalidFormat, cause := .outside .keySourceLength 0 Config.kcap bytes.length } s
    else (decodeKey bytes s).andThen fun _ t => .done bytes t

/-! ## Transforming data -/

/-- `transform(data, key, dir)` with the key already decoded: `LOADD data; ENC or DEC; RD STATUS; READD len(data)`, the
error record read in place of the data on failure (spec/30_encoding.md R69). The host checks `len(data) <= DMAX`
itself (spec/43_host_procedures.md R128; notes/assumptions/18.md). -/
def transformOnBlock (dir : Direction) (data : List Byte) (s : State) : ProcEnd State (List Byte) :=
  if s.cfg.dmax.toNat < data.length then .failed (argumentOutside .dataLength 0 s.cfg.dmax.toNat data.length) s
  else (runToStatus (transformToStatusOps dir data) s).andThen fun _ t =>
    (runHost (readD data.length) t).andThen fun as u => .done (as.map byteOfAnswer) u

end Sys2Proof.Machine
end

