-- ==== Sys2Proof/Machine/HostCodec.lean ====
section
/-!
DEFINITION. The chunked file codec of spec/43_host_procedures.md: encrypt_stream and decrypt_stream, over a storage
whose every read and write may fail. OUTSIDE the block (spec/00_scope.md R4); no step depends on it
(notes/assumptions/18.md to 20.md, 24.md, 25.md). Random draws and storage are arguments.
-/

namespace Sys2Proof.Machine

/-! ## What the spec leaves open -/

/-- The error kind of a failed separator search: "`IOFailure`/`InvalidFormat`", one of the two
(spec/93_implementation_defined.md U7). -/
inductive SeparatorFailure where
  | ioFailure
  | invalidFormat
deriving DecidableEq, Repr

/-- The error kind as reported. -/
def SeparatorFailure.kind : SeparatorFailure → ErrKind
  | .ioFailure => .ioFailure
  | .invalidFormat => .invalidFormat

/-- What decrypt_stream does with a line whose treatment the spec leaves open. DESIGN CHOICE: the spec lists no
treatments, these three are the model's (notes/assumptions/19.md). -/
inductive EdgeLine where
  /-- As with any other line. -/
  | ordinary
  /-- The line is passed over. -/
  | skipped
  /-- The call fails with InvalidFormat. -/
  | invalidFormat
deriving DecidableEq, Repr

/-- What the spec leaves open of the file codec (notes/assumptions/19.md). -/
structure CodecParams where
  /-- `LINE_TERMINATOR` (spec/92_eei_decisions.md D24). -/
  lineTerminator       : Byte
  /-- The error kind of a failed separator search (spec/93_implementation_defined.md U7). -/
  separatorFailure     : SeparatorFailure
  /-- A non-empty input of k * 1024 bytes ends in an empty chunk line (spec/93_implementation_defined.md U8). -/
  emptyFinalChunk      : Bool
  /-- An empty input gives one empty chunk line after the separator line (spec/93_implementation_defined.md U8). -/
  emptyInputChunk      : Bool
  /-- A last line without terminator, on decryption (spec/93_implementation_defined.md U8). -/
  unterminatedLine     : EdgeLine
  /-- An empty line after the first, on decryption (spec/93_implementation_defined.md U8). -/
  emptyLine            : EdgeLine
  /-- An empty first line is accepted as a separator of no bytes; otherwise it is InvalidFormat. DESIGN CHOICE: the
  spec does not say what an empty separator does (notes/assumptions/19.md). -/
  acceptEmptySeparator : Bool
deriving DecidableEq, Repr

/-! ## Storage -/

/-- The two kinds of access to the underlying storage (spec/43_host_procedures.md R129). -/
inductive FileAccess where
  | read
  | write
deriving DecidableEq, Repr

/-- The two file handles of a call (spec/43_host_procedures.md R129), where its reading has got to, the accesses it
has tried, newest first, and what the output holds. -/
structure Files where
  inputOpen  : Bool
  outputOpen : Bool
  unread     : List Byte
  journal    : List FileAccess
  written    : List Byte
deriving DecidableEq, Repr

/-- How many reads have been tried. -/
def Files.reads (f : Files) : Nat := f.journal.count .read

/-- How many writes have been tried. -/
def Files.writes (f : Files) : Nat := f.journal.count .write

/-- A host procedure at work on the block and on files. -/
structure Session where
  block : State
  files : Files
deriving DecidableEq, Repr

/-- The storage of one call: what the input holds, which of the call's reads and writes succeed, each kind counted
from 0 (spec/43_host_procedures.md R129; notes/assumptions/24.md), and a FREE VALUE: what the output holds after a call
that fails, "`any value` for the file content" (spec/93_implementation_defined.md U9; notes/assumptions/25.md). -/
structure Storage where
  content      : List Byte
  readOk       : Nat → Bool
  writeOk      : Nat → Bool
  afterFailure : Session → List Byte

/-- Both handles held, nothing read or written yet. -/
def openSession (st : Storage) (s : State) : Session :=
  { block := s
    files := { inputOpen := true, outputOpen := true, unread := st.content, journal := [], written := [] } }

/-- Both handles given back. -/
def releaseHandles (x : Session) : Session :=
  { x with files := { x.files with inputOpen := false, outputOpen := false } }

/-- The output of a call that fails: any content, whatever had been written; the block stays as the last completed
command left it (spec/93_implementation_defined.md U9; notes/assumptions/25.md). -/
def losePartialOutput (st : Storage) (x : Session) : Session :=
  { x with files := { x.files with written := st.afterFailure x } }

/-- Run a call with both handles held; they "must be released on every exit path including error paths", and "no
partial output file is guaranteed to be valid" (spec/43_host_procedures.md R129). -/
def withHandles {α : Type} (st : Storage) (call : Session → ProcEnd Session α) (s : State) : ProcEnd Session α :=
  ((call (openSession st s)).mapUndone (losePartialOutput st)).mapState releaseHandles

/-- Use the block in the middle of a call. -/
def onBlock {α : Type} (proc : State → ProcEnd State α) (x : Session) : ProcEnd Session α :=
  (proc x.block).mapState fun s => { x with block := s }

/-- Start reading the input again: "Re-read the input from the start" (spec/43_host_procedures.md R126). -/
def rewind (st : Storage) (x : Session) : Session := { x with files := { x.files with unread := st.content } }

/-- Note an access that is tried. -/
def noteAccess (a : FileAccess) (x : Session) : Session :=
  { x with files := { x.files with journal := a :: x.files.journal } }

/-- One read: IOFailure if the storage fails (spec/43_host_procedures.md R129), else what `split` takes off the unread
input. -/
def readInput {α : Type} (st : Storage) (split : List Byte → α × List Byte) (x : Session) : ProcEnd Session α :=
  let y := noteAccess .read x
  if st.readOk x.files.reads then
    .done (split x.files.unread).1 { y with files := { y.files with unread := (split x.files.unread).2 } }
  else .failed storageFailure y

/-- One write at the end of the output: IOFailure if the storage fails (spec/43_host_procedures.md R129). What the
output holds after that is `losePartialOutput`'s. -/
def writeOutput (st : Storage) (bytes : List Byte) (x : Session) : ProcEnd Session Unit :=
  let y := noteAccess .write x
  if st.writeOk x.files.writes then
    .done () { y with files := { y.files with written := y.files.written ++ bytes } }
  else .failed storageFailure y

/-- `CHUNK`: 1024 bytes (spec/00_scope.md R6). -/
def chunkSize : Nat := 1024

/-- Read the next 1024 bytes, or what is left of the input; no bytes at its end (spec/43_host_procedures.md R126). -/
def readChunk (st : Storage) (x : Session) : ProcEnd Session (List Byte) :=
  readInput st (fun l => (l.take chunkSize, l.drop chunkSize)) x

/-! ## The separator -/

/-- The shortest separator tried: "starting at length 3" (spec/43_host_procedures.md R125). -/
def sepLenMin : Nat := 3

/-- `SEP_LEN_MAX`: 64, the document's own suggestion (spec/92_eei_decisions.md D26). -/
def sepLenMax : Nat := 64

/-- `sub` occurs somewhere in `l`. -/
def occursIn (sub : List Byte) : List Byte → Bool
  | [] => sub.isEmpty
  | b :: bs => sub.isPrefixOf (b :: bs) || occursIn sub bs

/-- The fresh random token of length `len`: byte `j` of it is `draw len j` (spec/43_host_procedures.md R125). -/
def tokenOf (draw : Nat → Nat → Byte) (len : Nat) : List Byte := (List.range len).map (draw len)

/-- Condition (b) on a separator: no 1 KiB increment of the unread input contains it; an occurrence across two
increments is not looked for (spec/43_host_procedures.md R125). `fuel` exceeds the number of increments. -/
def inputAvoids (st : Storage) (sep : List Byte) : Nat → Session → ProcEnd Session Bool
  | 0, x => .done true x
  | fuel + 1, x =>
    (readChunk st x).andThen fun c y =>
      if c.isEmpty then .done true y
      else if occursIn sep c then .done false y
      else inputAvoids st sep fuel y

/-- The separator search from length `len` on, a fresh token one byte longer on each retry, `tries` tokens at most:
the first that (a) does not contain the line terminator and (b) occurs in no increment of the raw input
(spec/43_host_procedures.md R125). -/
def findSeparator (st : Storage) (p : CodecParams) (draw : Nat → Nat → Byte) :
    Nat → Nat → Session → ProcEnd Session (List Byte)
  | 0, _, x => .failed { kind := p.separatorFailure.kind, cause := .noSeparator sepLenMin sepLenMax } x
  | tries + 1, len, x =>
    if (tokenOf draw len).contains p.lineTerminator then findSeparator st p draw tries (len + 1) x
    else
      (inputAvoids st (tokenOf draw len) (st.content.length + 1) (rewind st x)).andThen fun avoids y =>
        if avoids then .done (tokenOf draw len) y else findSeparator st p draw tries (len + 1) y

/-- Step 1 of encrypt_stream: lengths 3 to 64 (spec/43_host_procedures.md R125, spec/92_eei_decisions.md D26). -/
def chooseSeparator (st : Storage) (p : CodecParams) (draw : Nat → Nat → Byte) (x : Session) :
    ProcEnd Session (List Byte) :=
  findSeparator st p draw (sepLenMax + 1 - sepLenMin) sepLenMin x

/-! ## encrypt_stream -/

/-- Replace every line terminator of an encrypted chunk by the separator (spec/43_host_procedures.md R126). -/
def escapeChunk (p : CodecParams) (sep chunk : List Byte) : List Byte :=
  chunk.flatMap fun b => if b = p.lineTerminator then sep else [b]

/-- One chunk: an ENC command of its own, then its line written (spec/43_host_procedures.md R126, R127). -/
def encryptChunk (st : Storage) (p : CodecParams) (sep chunk : List Byte) (x : Session) : ProcEnd Session Unit :=
  (onBlock (transformOnBlock .encrypt chunk) x).andThen fun e y =>
    writeOutput st (escapeChunk p sep e ++ [p.lineTerminator]) y

/-- The chunks of the unread input: "One chunk is fully transformed and written before the next is read"
(spec/43_host_procedures.md R126). `fuel` exceeds the number of chunks. -/
def encryptChunks (st : Storage) (p : CodecParams) (sep : List Byte) : Nat → Session → ProcEnd Session Unit
  | 0, x => .done () x
  | fuel + 1, x =>
    (readChunk st x).andThen fun c y =>
      if c.isEmpty then .done () y
      else (encryptChunk st p sep c y).andThen fun _ z => encryptChunks st p sep fuel z

/-- An empty chunk line follows the chunks of an input of `len` bytes (spec/93_implementation_defined.md U8). -/
def endsInEmptyChunk (p : CodecParams) (len : Nat) : Bool :=
  if len = 0 then p.emptyInputChunk else p.emptyFinalChunk && len % chunkSize == 0

/-- `encrypt_stream(input, output, key)`: the key is decoded first, so that one that does not decode fails before any
output; then the separator is chosen, its line written, and the chunks follow
(spec/43_host_procedures.md R125 to R127, R129). -/
def encryptStream (st : Storage) (p : CodecParams) (draw : Nat → Nat → Byte) (key : List Byte) (s : State) :
    ProcEnd Session Unit :=
  withHandles st (fun x =>
    (onBlock (loadKey (some key)) x).andThen fun _ x₁ =>
    (chooseSeparator st p draw x₁).andThen fun sep x₂ =>
    (writeOutput st (sep ++ [p.lineTerminator]) x₂).andThen fun _ x₃ =>
    (encryptChunks st p sep (st.content.length + 1) (rewind st x₃)).andThen fun _ x₄ =>
      if endsInEmptyChunk p st.content.length then encryptChunk st p sep [] x₄ else .done () x₄) s

/-! ## decrypt_stream -/

/-- A line of the input without its terminator. -/
structure Line where
  bytes      : List Byte
  terminated : Bool
deriving DecidableEq, Repr

/-- Take the first line off some bytes: the line, and what follows its terminator. -/
def takeLine (terminator : Byte) : List Byte → Line × List Byte
  | [] => ({ bytes := [], terminated := false }, [])
  | b :: bs =>
    if b = terminator then ({ bytes := [], terminated := true }, bs)
    else
      ({ (takeLine terminator bs).1 with bytes := b :: (takeLine terminator bs).1.bytes }, (takeLine terminator bs).2)

/-- Read the next line, none at the end of the input (spec/43_host_procedures.md R128). -/
def readLine (st : Storage) (p : CodecParams) (x : Session) : ProcEnd Session (Option Line) :=
  readInput st (fun l =>
    if l.isEmpty then (none, l) else (some (takeLine p.lineTerminator l).1, (takeLine p.lineTerminator l).2)) x

/-- Replace the occurrences of the separator by a line terminator, from the left, none overlapping the one before
(spec/43_host_procedures.md R128; notes/assumptions/20.md). DESIGN CHOICE: an empty separator, where the codec accepts
one, replaces nothing (notes/assumptions/19.md). `fuel` is at least the length. -/
def restoreChunk (p : CodecParams) (sep : List Byte) : Nat → List Byte → List Byte
  | 0, l => l
  | _ + 1, [] => []
  | fuel + 1, b :: bs =>
    if !sep.isEmpty && sep.isPrefixOf (b :: bs) then
      p.lineTerminator :: restoreChunk p sep fuel ((b :: bs).drop sep.length)
    else b :: restoreChunk p sep fuel bs

/-- An InvalidFormat the host reports itself (spec/60_exceptions.md R150). -/
def badFormat (cause : Cause) : ErrorReport := { kind := .invalidFormat, cause := cause }

/-- The separator is the first line; InvalidFormat if there is none (spec/43_host_procedures.md R128, R129). A first
line without terminator and an empty one are open (`CodecParams`, notes/assumptions/19.md). -/
def readSeparator (st : Storage) (p : CodecParams) (x : Session) : ProcEnd Session (List Byte) :=
  (readLine st p x).andThen fun line y =>
    match line with
    | none => .failed (badFormat .firstLineAbsent) y
    | some l =>
      if l.terminated then
        if l.bytes.isEmpty && !p.acceptEmptySeparator then .failed (badFormat .emptySeparator) y
        else .done l.bytes y
      else match p.unterminatedLine with
        | .ordinary => .done l.bytes y
        | .skipped => .failed (badFormat .firstLineAbsent) y
        | .invalidFormat => .failed (badFormat .unterminatedLine) y

/-- How a line after the first is taken: an unterminated and an empty one as the parameters say, DESIGN CHOICE
(spec/93_implementation_defined.md U8; notes/assumptions/19.md). -/
def lineUse (p : CodecParams) (l : Line) : EdgeLine :=
  if !l.terminated then p.unterminatedLine else if l.bytes.isEmpty then p.emptyLine else .ordinary

/-- One line: restored, a DEC command of its own, and the result written (spec/43_host_procedures.md R128). -/
def decryptLine (st : Storage) (p : CodecParams) (sep : List Byte) (l : Line) (x : Session) : ProcEnd Session Unit :=
  match lineUse p l with
  | .ordinary =>
    (onBlock (transformOnBlock .decrypt (restoreChunk p sep l.bytes.length l.bytes)) x).andThen fun d y =>
      writeOutput st d y
  | .skipped => .done () x
  | .invalidFormat => .failed (badFormat (if l.terminated then .emptyLine else .unterminatedLine)) x

/-- The lines of the unread input, in order (spec/43_host_procedures.md R128). `fuel` exceeds their number. -/
def decryptLines (st : Storage) (p : CodecParams) (sep : List Byte) : Nat → Session → ProcEnd Session Unit
  | 0, x => .done () x
  | fuel + 1, x =>
    (readLine st p x).andThen fun line y =>
      match line with
      | none => .done () y
      | some l => (decryptLine st p sep l y).andThen fun _ z => decryptLines st p sep fuel z

/-- `decrypt_stream(input, output, key)`: the key is decoded first, then the separator line is read, then every further
line is restored, decrypted and written (spec/43_host_procedures.md R128, R129). -/
def decryptStream (st : Storage) (p : CodecParams) (key : List Byte) (s : State) : ProcEnd Session Unit :=
  withHandles st (fun x =>
    (onBlock (loadKey (some key)) x).andThen fun _ x₁ =>
    (readSeparator st p x₁).andThen fun sep x₂ =>
    decryptLines st p sep (st.content.length + 1) x₂) s

end Sys2Proof.Machine
end

