-- ==== Sys2Proof/Machine/ClosedForm.lean ====
section
/-!
DEFINITION. The closed form of the schedule and of a transform's result (spec/42_transform.md R106). The step form of
Machine/Transform.lean is the normative one; nothing here is used by a step, claims compare the two.
-/

namespace Sys2Proof.Machine

/-- The JINT a transform started in `s` uses (spec/41_jump_schedule.md R95). -/
def scheduleInterval (s : State) : Nat := jumpInterval s.cfg.jiEval (dataLen s) s.jfreq.toNat

/-- The JDIST a transform started in `s` uses (spec/41_jump_schedule.md R95). -/
def scheduleDistance (s : State) : Nat := jumpDistance s.jlen.toNat (keyLen s)

/-- `j(t) = t div JINT`, the jumps completed before global step `t` (spec/42_transform.md R106). -/
def jumpsBefore (s : State) (t : Nat) : Nat := t / scheduleInterval s

/-- `POS` at the start of step `t`: `(t + j(t) * JDIST) mod L` (spec/42_transform.md R106). -/
def cursorAt (s : State) (t : Nat) : Nat := (t + jumpsBefore s t * scheduleDistance s) % keyLen s

/-- `POL` at the start of step `t`: `j(t) mod 2` (spec/42_transform.md R106). -/
def polarityAt (s : State) (t : Nat) : Bool := jumpsBefore s t % 2 == 1

/-- `CNT` at the start of step `t`: `JINT - (t mod JINT)` (spec/42_transform.md R106). -/
def countAt (s : State) (t : Nat) : Nat := scheduleInterval s - t % scheduleInterval s

/-- `sgn(t) * block[...]`, the signed key byte of step `t` for a key block `blk` (spec/42_transform.md R106). -/
def signedKeyByte (s : State) (blk : Nat → Byte) (t : Nat) : Int :=
  if polarityAt s t then -((blk (cursorAt s t)).toNat : Int) else ((blk (cursorAt s t)).toNat : Int)

/-- `Delta(i)`: the sum over the ten passes `p` of the signed key bytes of the steps `p * N + i`
(spec/42_transform.md R106). -/
def delta (s : State) (blk : Nat → Byte) (i : Nat) : Int :=
  ((List.range Config.rounds).map fun p => signedKeyByte s blk (p * dataLen s + i)).sum

/-- `ENC: (in[i] + Delta(i)) mod 256`, `DEC: (in[i] - Delta(i)) mod 256` (spec/42_transform.md R106). -/
def closedByte (dir : Direction) (s : State) (blk : Nat → Byte) (i : Nat) (d : Byte) : Byte :=
  match dir with
  | .encrypt => BitVec.ofInt 8 ((d.toNat : Int) + delta s blk i)
  | .decrypt => BitVec.ofInt 8 ((d.toNat : Int) - delta s blk i)

end Sys2Proof.Machine
end

