-- ==== Sys2Proof/Safety.lean ====
section
/-!
DEFINITION. What the claims speak of: the invariants of spec/10_state.md R35 with the widths of R19 to R24, the
framing of a Key, which cells a command reads, and what it leaves alone.
-/

namespace Sys2Proof.Machine

/-- The operation goes on to a next state: it neither faults nor is refused. -/
def completes (r : Result) : Prop := ∃ t, r = .next t

/-- Buffer `m` holds `bytes` from index `base` on. -/
def holdsAt (m : Memory) (base : Nat) (bytes : List Byte) : Prop :=
  ∀ i (h : i < bytes.length), Memory.read m (base + i) = some bytes[i]

/-- Cells 0 to n - 1 of `m` hold values: the host has written them (spec/70_reset_and_hazards.md R179). -/
def writtenBelow (m : Memory) (n : Nat) : Prop := ∀ i < n, (Memory.read m i).isSome

/-- The bytes in KBUF agree with the decoded-key registers: part (c) of spec/10_state.md R35. -/
structure KeyFramed (s : State) : Prop where
  length    : s.kbufLen.toNat = Config.keyOverhead + keyLen s
  klen_min  : Config.klenMin ≤ keyLen s
  header    : Memory.read s.kbuf 0 = some Config.header
  klen      : ∃ hi lo, Memory.read s.kbuf 1 = some hi ∧ Memory.read s.kbuf 2 = some lo ∧
                hi.toNat * 256 + lo.toNat = s.klen.toNat
  jfreq     : Memory.read s.kbuf 3 = some s.jfreq
  jlen      : ∃ b2 b1 b0, Memory.read s.kbuf 4 = some b2 ∧ Memory.read s.kbuf 5 = some b1 ∧
                Memory.read s.kbuf 6 = some b0 ∧
                b2.toNat * 65536 + b1.toNat * 256 + b0.toNat = s.jlen.toNat
  finalizer : Memory.read s.kbuf (Config.blockOffset + keyLen s) = some Config.finalizer

/-- The combinations of ERRCODE and ERRSUB that occur: InvalidFormat with TRUNCATED, HEADER, LENGTH, KEYLEN_RANGE,
FINALIZER or NOKEY, InvalidArgument with DLEN_RANGE or BADCMD (spec/60_exceptions.md R151). -/
def errorCodePairs : List (BitVec 2 × BitVec 4) :=
  [(2, 4), (2, 1), (2, 3), (2, 5), (2, 2), (2, 6), (1, 8), (1, 7)]

/-- The invariant of the block: the parameters' range (spec/00_scope.md R6), the buffers' canonical form, the error
record (spec/10_state.md R35 (a), (b); spec/60_exceptions.md R151), the decoded key (R35 (c)) and the widths of the
internal registers (spec/10_state.md R19 to R24). -/
structure Inv (s : State) : Prop where
  dmax_pos     : 1 ≤ s.cfg.dmax.toNat
  kbuf_wf      : Memory.wf Config.kcap s.kbuf = true
  dbuf_wf      : Memory.wf s.cfg.dmax.toNat s.dbuf = true
  ok_err       : ¬ (s.ok = true ∧ s.err = true)
  errcode_err  : s.errcode = 0 ↔ s.err = false
  no_error     : s.err = false → s.errsub = 0 ∧ s.errexp = 0 ∧ s.erract = 0
  error_codes  : s.err = true → (s.errcode, s.errsub) ∈ errorCodePairs
  key_framed   : s.kvalid = true → KeyFramed s
  pos_width    : s.pos < 2 ^ 23
  cnt_width    : s.cnt < 2 ^ 32
  jint_width   : s.jint < 2 ^ 32
  jdist_width  : s.jdist < 2 ^ 23
  pass_range   : s.pass ≤ 9
  idx_width    : s.idx < 2 ^ 32

/-- A transform runs in `s`: a decoded key and a length within the capacity (spec/42_transform.md R100 to R102). -/
structure TransformReady (s : State) : Prop where
  key  : s.kvalid = true
  klen : 4 ≤ s.klen.toNat
  dlen : s.dlen.toNat ≤ s.cfg.dmax.toNat

/-- The key-block cells a transform visits hold the bytes of `blk` (spec/42_transform.md R115). -/
def visitedBlock (s : State) (blk : Nat → Byte) : Prop :=
  ∀ t < 10 * s.dlen.toNat, Memory.read s.kbuf (7 + cursorAt s t) = some (blk (cursorAt s t))

/-- DBUF[0 .. DLEN - 1] hold the bytes of `inp`. -/
def dataIs (s : State) (inp : Nat → Byte) : Prop :=
  ∀ i < s.dlen.toNat, Memory.read s.dbuf i = some (inp i)

/-- `t` agrees with `s` on KBUF, KBUF_LEN, DBUF, DLEN, the internal registers, the parameters and the host side: on
everything but the error record and the decoded key (spec/60_exceptions.md R155). -/
structure SameButRecordAndKey (s t : State) : Prop where
  cfg     : t.cfg = s.cfg
  kbufLen : t.kbufLen = s.kbufLen
  dlen    : t.dlen = s.dlen
  kbuf    : t.kbuf = s.kbuf
  dbuf    : t.dbuf = s.dbuf
  pos     : t.pos = s.pos
  cnt     : t.cnt = s.cnt
  pol     : t.pol = s.pol
  jint    : t.jint = s.jint
  jdist   : t.jdist = s.jdist
  pass    : t.pass = s.pass
  idx     : t.idx = s.idx
  host    : t.host = s.host

/-- The error record after `raise Error`, in the numbers the host reads (spec/60_exceptions.md R151, R153). -/
structure RecordsError (code : BitVec 2) (sub : BitVec 4) (exp act : Word) (t : State) : Prop where
  errcode : t.errcode = code
  errsub  : t.errsub = sub
  errexp  : t.errexp = exp
  erract  : t.erract = act
  err     : t.err = true
  ok      : t.ok = false

/-- The state after a command that failed: the record written, KVALID as given, nothing else changed
(spec/60_exceptions.md R153, R155). -/
def failedWith (kvalid : Bool) (code : BitVec 2) (sub : BitVec 4) (exp act : Word) (s : State) : State :=
  { s with kvalid := kvalid, errcode := code, errsub := sub, errexp := exp, erract := act, err := true, ok := false }

/-- KDEC ends in InvalidFormat with this sub-cause and these values, KVALID cleared and nothing else changed. What
KLEN, JFREQ and JLEN store while KVALID = 0 is left open, as spec/93_implementation_defined.md U4 leaves it
(notes/assumptions/14.md). -/
def kdecFailsWith (sub : BitVec 4) (exp act : Word) (s : State) : Prop :=
  ∃ kl jf jl, exec .kdec s =
    .next { failedWith false 2 sub exp act s with klen := kl, jfreq := jf, jlen := jl }

/-- The state after a KDEC that completed: the decoded key, KVALID, the cleared record, nothing else changed
(spec/40_key_decode.md R81). -/
def decodedWith (kl jf jl : Nat) (s : State) : State :=
  { s with
    klen := BitVec.ofNat 16 kl, jfreq := BitVec.ofNat 8 jf, jlen := BitVec.ofNat 24 jl, kvalid := true
    errcode := 0, errsub := 0, errexp := 0, erract := 0, err := false, ok := true }

/-- The result registers after `complete` (spec/60_exceptions.md R154). -/
structure RecordsSuccess (t : State) : Prop where
  errcode : t.errcode = 0
  errsub  : t.errsub = 0
  errexp  : t.errexp = 0
  erract  : t.erract = 0
  err     : t.err = false
  ok      : t.ok = true

/-- What a completed ENC or DEC leaves unchanged besides the data: KBUF, KBUF_LEN, DLEN, KVALID, KLEN, JFREQ, JLEN,
the parameters and the host side (spec/42_transform.md R110). -/
structure SameKeySide (s t : State) : Prop where
  cfg     : t.cfg = s.cfg
  kvalid  : t.kvalid = s.kvalid
  kbufLen : t.kbufLen = s.kbufLen
  dlen    : t.dlen = s.dlen
  klen    : t.klen = s.klen
  jfreq   : t.jfreq = s.jfreq
  jlen    : t.jlen = s.jlen
  kbuf    : t.kbuf = s.kbuf
  host    : t.host = s.host

/-- `t` is what a transform of the data `inp` with the key block `blk` leaves: every data byte as the closed form of
spec/42_transform.md R106 says, every other cell, the key side and the parameters as before, OK recorded (R110). -/
structure TransformResult (dir : Direction) (s : State) (blk inp : Nat → Byte) (t : State) : Prop where
  data    : ∀ i < s.dlen.toNat, Memory.read t.dbuf i = some (closedByte dir s blk i (inp i))
  outside : ∀ a, s.dlen.toNat ≤ a → Memory.read t.dbuf a = Memory.read s.dbuf a
  keySide : SameKeySide s t
  success : RecordsSuccess t

/-- `s` and `s'` agree on all that a transform's output is a function of: "(KLEN, JFREQ, JLEN, key block, DLEN, input
bytes, direction) alone" (spec/42_transform.md R111), beside KVALID and the parameters. -/
structure AgreeOnInputs (s s' : State) : Prop where
  cfg    : s'.cfg = s.cfg
  kvalid : s'.kvalid = s.kvalid
  klen   : s'.klen = s.klen
  jfreq  : s'.jfreq = s.jfreq
  jlen   : s'.jlen = s.jlen
  dlen   : s'.dlen = s.dlen
  block  : ∀ j < s.klen.toNat, Memory.read s'.kbuf (7 + j) = Memory.read s.kbuf (7 + j)
  data   : ∀ i < s.dlen.toNat, Memory.read s'.dbuf i = Memory.read s.dbuf i

/-- The passes in which index `i` meets polarity 0, less those in which it meets polarity 1
(spec/42_transform.md R112 (g)). -/
def passBalance (s : State) (i : Nat) : Int :=
  ((List.range 10).countP fun p => !polarityAt s (p * s.dlen.toNat + i) : Nat) -
  ((List.range 10).countP fun p => polarityAt s (p * s.dlen.toNat + i) : Nat)

/-- Conditions (a) and (b) on a separator: no line terminator in it, and no occurrence of it inside a 1 KiB increment
of the input (spec/43_host_procedures.md R125). -/
def separatorFits (st : Storage) (p : CodecParams) (sep : List Byte) : Prop :=
  p.lineTerminator ∉ sep ∧ ∀ m, ¬ sep <:+: (st.content.drop (1024 * m)).take 1024

end Sys2Proof.Machine
end

