-- ==== Sys2Proof/WellFormed.lean ====
section
/-!
DEFINITION. Which terms name something the hardware has: every command does (spec/30_encoding.md R64: no operand
fields); a host operation does when its register offset is listed (spec/10_state.md R11) and its cell index lies
below the buffer's capacity (spec/20_memory.md R42, spec/93_implementation_defined.md U3).
-/

namespace Sys2Proof

/-- A command has no operand field, so nothing can be out of range (spec/30_encoding.md R64). -/
def Instr.wellFormed : Instr → Bool
  | .kdec => true
  | .enc => true
  | .dec => true

/-- The byte offsets of the register space that spec/10_state.md R11 lists: 0x00 to 0x28 in steps of four. -/
def registerOffsets : List Nat :=
  [0x00, 0x04, 0x08, 0x0C, 0x10, 0x14, 0x18, 0x1C, 0x20, 0x24, 0x28]

/-- The host's moves on an instance with `DMAX = dmax`: a listed register, or a cell below the capacity, 65543 for
KBUF and DMAX for DBUF (spec/93_implementation_defined.md U3). -/
def Machine.HostOp.wellFormed (dmax : Word) : Machine.HostOp → Bool
  | .writeReg off _ => registerOffsets.contains off
  | .readReg off => registerOffsets.contains off
  | .writeByte .kbuf addr _ => decide (addr < Config.kcap)
  | .writeByte .dbuf addr _ => decide (addr < dmax.toNat)
  | .readByte .kbuf addr => decide (addr < Config.kcap)
  | .readByte .dbuf addr => decide (addr < dmax.toNat)
  | .reset => true

end Sys2Proof
end

