-- ==== Sys2Proof/Certificates/Slice0/Obligations.lean ====
section
/-!
DEFINITION. The statements about the model, from the numbered rules of spec/.
-/

open Sys2Proof Sys2Proof.Machine

/-! ## Commands and their words -/

/-- A CMD write of a word that decodes runs the decoded command, whole, in the state with the write taken
(spec/10_state.md R26, spec/20_memory.md R48). -/
def Obligations.StepRunsDecodedCommand : Prop :=
  ∀ (s : State) (w : Word) (i : Instr) (rest : List HostOp),
    s.host.pending = .writeReg 0x00 w :: rest → decode w = .ok i → i.wellFormed = true →
    step s = exec i (withPending rest s)

/-- spec/30_encoding.md R65: an illegal command word. -/
def Obligations.IllegalWordRecordsBadcmdOnly : Prop :=
  ∀ (s : State) (w : Word) (rest : List HostOp),
    s.host.pending = .writeReg 0x00 w :: rest → w ≠ 1 → w ≠ 2 → w ≠ 3 →
    step s = .next (failedWith s.kvalid 1 7 0 w (withPending rest s))

/-- Each command has exactly one word and each word at most one command (spec/30_encoding.md R64, R65, R70). -/
def Obligations.DecodeInvertsEncode : Prop :=
  ∀ (w : Word) (i : Instr), decode w = .ok i ↔ w = encode i

/-- The three words of the table, written out (spec/30_encoding.md R64). -/
def Obligations.TableWordsDecode : Prop :=
  decode 0b00000000000000000000000000000001#32 = .ok .kdec ∧
  decode 0b00000000000000000000000000000010#32 = .ok .enc ∧
  decode 0b00000000000000000000000000000011#32 = .ok .dec ∧
  (decode 0b00000000000000000000000000000000#32).toOption = none ∧
  (decode 0b00000000000000000000000100000010#32).toOption = none

/-! ## KDEC -/

/-- spec/40_key_decode.md R80: the outcome of every check in its order, and the decoded key. -/
def Obligations.KdecFollowsItsPseudocode : Prop :=
  ∀ s : State,
    (s.kbufLen.toNat < 8 → kdecFailsWith 4 8 s.kbufLen s) ∧
    (∀ h : Byte, 8 ≤ s.kbufLen.toNat → Memory.read s.kbuf 0 = some h → h ≠ 0xFF →
      kdecFailsWith 1 0xFF (BitVec.ofNat 32 h.toNat) s) ∧
    (∀ hi lo : Byte, 8 ≤ s.kbufLen.toNat → Memory.read s.kbuf 0 = some 0xFF →
      Memory.read s.kbuf 1 = some hi → Memory.read s.kbuf 2 = some lo →
      (s.kbufLen.toNat ≠ 8 + (hi.toNat * 256 + lo.toNat) →
        kdecFailsWith 3 (BitVec.ofNat 32 (8 + (hi.toNat * 256 + lo.toNat))) s.kbufLen s) ∧
      (s.kbufLen.toNat = 8 + (hi.toNat * 256 + lo.toNat) → hi.toNat * 256 + lo.toNat < 4 →
        kdecFailsWith 5 4 (BitVec.ofNat 32 (hi.toNat * 256 + lo.toNat)) s) ∧
      (∀ f : Byte, s.kbufLen.toNat = 8 + (hi.toNat * 256 + lo.toNat) → 4 ≤ hi.toNat * 256 + lo.toNat →
        Memory.read s.kbuf (7 + (hi.toNat * 256 + lo.toNat)) = some f →
        (f ≠ 0x00 → kdecFailsWith 2 0 (BitVec.ofNat 32 f.toNat) s) ∧
        (∀ jf b2 b1 b0 : Byte, f = 0x00 → Memory.read s.kbuf 3 = some jf → Memory.read s.kbuf 4 = some b2 →
          Memory.read s.kbuf 5 = some b1 → Memory.read s.kbuf 6 = some b0 →
          exec .kdec s = .next (decodedWith (hi.toNat * 256 + lo.toNat) jf.toNat
            (b2.toNat * 65536 + b1.toNat * 256 + b0.toNat) s))))

/-- spec/40_key_decode.md R82: what the host reads of the decoded key after a KDEC that failed, and what stays. -/
def Obligations.FailedKdecWithdrawsTheKey : Prop :=
  ∀ s t : State, exec .kdec s = .next t → t.err = true →
    t.kvalid = false ∧ readRegister .klen t = 0 ∧ readRegister .jfreq t = 0 ∧ readRegister .jlen t = 0 ∧
    t.ok = false ∧ readRegister .errcode t = 2 ∧
    t.kbuf = s.kbuf ∧ t.kbufLen = s.kbufLen ∧ t.dbuf = s.dbuf ∧ t.dlen = s.dlen ∧
    exec .enc t = .next (failedWith false 2 6 0 0 t) ∧ exec .dec t = .next (failedWith false 2 6 0 0 t)

/-- spec/40_key_decode.md R85, over candidates whose cells hold values. -/
def Obligations.KdecSucceedsExactlyOnKeys : Prop :=
  ∀ (s : State) (c : Nat → Byte), (∀ a ≤ 6, Memory.read s.kbuf a = some (c a)) →
    (s.kbufLen.toNat = 8 + (c 1).toNat * 256 + (c 2).toNat → (Memory.read s.kbuf (s.kbufLen.toNat - 1)).isSome) →
    ((∃ t, exec .kdec s = .next t ∧ t.ok = true) ↔
      12 ≤ s.kbufLen.toNat ∧ c 0 = 0xFF ∧ s.kbufLen.toNat = 8 + (c 1).toNat * 256 + (c 2).toNat ∧
        Memory.read s.kbuf (s.kbufLen.toNat - 1) = some 0x00)

/-- spec/40_key_decode.md R87. -/
def Obligations.KdecIsRepeatable : Prop :=
  ∀ s t : State, exec .kdec s = .next t →
    exec .kdec t = .next t ∧ t.dbuf = s.dbuf ∧ t.dlen = s.dlen ∧ t.kbuf = s.kbuf ∧ t.kbufLen = s.kbufLen

/-- spec/40_key_decode.md R83: the outcome is the same whatever the key block, the data and the data length are,
cells without a value among them, and no value of jump_frequency or jump_length makes KDEC fail. -/
def Obligations.KdecIgnoresKeyBlockAndData : Prop :=
  ∀ (s t : State) (kb db : Memory) (n : Word), exec .kdec s = .next t →
    Memory.read kb (s.kbufLen.toNat - 1) = Memory.read s.kbuf (s.kbufLen.toNat - 1) →
    ((∀ a ≤ 6, Memory.read kb a = Memory.read s.kbuf a) →
      exec .kdec { s with kbuf := kb, dbuf := db, dlen := n } =
        .next { t with kbuf := kb, dbuf := db, dlen := n }) ∧
    ((∀ a ≤ 2, Memory.read kb a = Memory.read s.kbuf a) → writtenBelow kb 7 →
      ∃ t', exec .kdec { s with kbuf := kb, dbuf := db, dlen := n } = .next t' ∧ t'.ok = t.ok)

/-- spec/40_key_decode.md R84: where KDEC can meet a cell without a value, and a length beyond the buffer. -/
def Obligations.KdecReadsStayInRange : Prop :=
  ∀ s : State,
    (∀ sp a, exec .kdec s = .fault (.noValue sp a) →
      sp = .kbuf ∧ a ≤ 65542 ∧ 8 ≤ s.kbufLen.toNat ∧ (a ≤ 6 ∨ a + 1 = s.kbufLen.toNat)) ∧
    (65543 < s.kbufLen.toNat → writtenBelow s.kbuf 3 →
      ∃ t, exec .kdec s = .next t ∧ t.err = true ∧ (t.errsub = 3 ∨ t.errsub = 1))

/-- spec/30_encoding.md R71: KDEC over the bytes of KeyEncode. -/
def Obligations.KdecDecodesWhatKeyEncodeWrites : Prop :=
  ∀ (s : State) (jf : Byte) (jl : BitVec 24) (blk : List Byte),
    4 ≤ blk.length → blk.length ≤ 65535 →
    s.kbufLen = BitVec.ofNat 32 (8 + blk.length) → holdsAt s.kbuf 0 (keyEncode jf jl blk) →
    keyEncode jf jl blk =
      [0xFF, BitVec.ofNat 8 (blk.length / 256), BitVec.ofNat 8 (blk.length % 256), jf,
        BitVec.ofNat 8 (jl.toNat / 65536), BitVec.ofNat 8 (jl.toNat / 256 % 256), BitVec.ofNat 8 (jl.toNat % 256)]
      ++ blk ++ [0x00] ∧
    (keyEncode jf jl blk).length = 8 + blk.length ∧
    ∃ t, exec .kdec s = .next t ∧ t.kvalid = true ∧ t.klen.toNat = blk.length ∧ t.jfreq = jf ∧ t.jlen = jl ∧
      (∀ j (h : j < blk.length), keyBlock t j = some blk[j]) ∧ RecordsSuccess t

/-! ## The jump schedule -/

/-- spec/41_jump_schedule.md R90, R91: the exact evaluation, its range and its corner cases. -/
def Obligations.JumpIntervalRange : Prop :=
  ∀ n jf : Nat, jf ≤ 255 →
    jumpInterval .exact n jf = max (jf * (n / 16) / 255) 2 ∧
    2 ≤ jumpInterval .exact n jf ∧ jumpInterval .exact n jf ≤ max 2 (n / 16) ∧
    (n < 48 → jumpInterval .exact n jf = 2) ∧
    (48 ≤ n → n ≤ 63 → jumpInterval .exact n jf = if jf = 255 then 3 else 2) ∧
    (jf = 0 → jumpInterval .exact n jf = 2) ∧
    (jf = 255 → jumpInterval .exact n jf = max (n / 16) 2) ∧
    (∀ m, m / 16 = n / 16 → jumpInterval .exact m jf = jumpInterval .exact n jf) ∧
    (∀ m, n ≤ m → jumpInterval .exact n jf ≤ jumpInterval .exact m jf) ∧
    (∀ jf', jf ≤ jf' → jf' ≤ 255 → jumpInterval .exact n jf ≤ jumpInterval .exact n jf')

/-- spec/41_jump_schedule.md R92: where the binary64 evaluation can differ from the exact one, and by how much. -/
def Obligations.BinaryEvaluationIsAtMostOneLess : Prop :=
  ∀ n jf : Nat, n < 2 ^ 32 → jf ≤ 255 →
    (jumpInterval .binary64 n jf = jumpInterval .exact n jf ∨
      (jf * (n / 16) ≠ 0 ∧ jf * (n / 16) % 255 = 0 ∧
        jumpInterval .binary64 n jf + 1 = jumpInterval .exact n jf)) ∧
    (jf = 0 ∨ jf = 255 → jumpInterval .binary64 n jf = jumpInterval .exact n jf)

/-- spec/41_jump_schedule.md R93, R94. -/
def Obligations.JumpDistanceRange : Prop :=
  ∀ jl l : Nat, jl ≤ 16777215 → 4 ≤ l → l ≤ 65535 →
    jumpDistance jl l = jl / l + l ∧
    l ≤ jumpDistance jl l ∧ jumpDistance jl l ≤ 4194307 ∧
    (l = 65535 → jumpDistance jl l ≤ 65791) ∧
    jumpDistance 16777215 4 = 4194307 ∧ jumpDistance 16777215 65535 = 65791 ∧
    (∀ x, (x + jumpDistance jl l) % l = (x + jl / l) % l) ∧
    (jl < l → jumpDistance jl l = l)

/-! ## ENC and DEC -/

/-- spec/42_transform.md R101. -/
def Obligations.TransformWithoutKeyFails : Prop :=
  ∀ s : State, s.kvalid = false →
    exec .enc s = .next (failedWith false 2 6 0 0 s) ∧ exec .dec s = .next (failedWith false 2 6 0 0 s)

/-- spec/42_transform.md R102: a length beyond DMAX fails, and no other length does. -/
def Obligations.TransformBeyondCapacityFails : Prop :=
  ∀ s : State, s.kvalid = true →
    (s.cfg.dmax.toNat < s.dlen.toNat →
      exec .enc s = .next (failedWith true 1 8 s.cfg.dmax s.dlen s) ∧
      exec .dec s = .next (failedWith true 1 8 s.cfg.dmax s.dlen s)) ∧
    (s.dlen.toNat ≤ s.cfg.dmax.toNat →
      ∀ t, exec .enc s = .next t ∨ exec .dec s = .next t → t.err = false)

/-- spec/42_transform.md R109: the empty transform, in both directions. -/
def Obligations.EmptyTransformCompletes : Prop :=
  ∀ s : State, s.dlen = 0 →
    (s.kvalid = true →
      (startTransform s).jint = 2 ∧ (startTransform s).jdist = s.jlen.toNat / s.klen.toNat + s.klen.toNat ∧
      (startTransform s).pos = 0 ∧ (startTransform s).cnt = 2 ∧ (startTransform s).pol = false ∧
      (∃ t, exec .enc s = .next t ∧ t.dbuf = s.dbuf ∧ SameKeySide s t ∧ RecordsSuccess t) ∧
      (∃ t, exec .dec s = .next t ∧ t.dbuf = s.dbuf ∧ SameKeySide s t ∧ RecordsSuccess t)) ∧
    (s.kvalid = false →
      exec .enc s = .next (failedWith false 2 6 0 0 s) ∧ exec .dec s = .next (failedWith false 2 6 0 0 s))

/-- spec/42_transform.md R103: one byte step, with the choice of R104 written out. -/
def Obligations.ByteStepFollowsItsPseudocode : Prop :=
  ∀ (dir : Direction) (s : State) (k d : Byte),
    s.pos < s.klen.toNat → 1 ≤ s.cnt → s.cnt ≤ s.jint →
    Memory.read s.kbuf (7 + s.pos) = some k → Memory.read s.dbuf s.idx = some d →
    ∃ t, byteStep dir s = .next t ∧
      (∀ a, Memory.read t.dbuf a =
        if a = s.idx then some (if (dir = .encrypt ↔ s.pol = false) then d + k else d - k)
        else Memory.read s.dbuf a) ∧
      t.pol = (if s.cnt = 1 then !s.pol else s.pol) ∧
      t.cnt = (if s.cnt = 1 then s.jint else s.cnt - 1) ∧
      t.pos = (if s.cnt = 1 then s.pos + 1 + s.jdist else s.pos + 1) % s.klen.toNat ∧
      t.pos < t.klen.toNat ∧ 1 ≤ t.cnt ∧ t.cnt ≤ t.jint ∧
      t.jint = s.jint ∧ t.jdist = s.jdist ∧ t.pass = s.pass ∧ t.idx = s.idx ∧ SameKeySide s t ∧
      t.ok = s.ok ∧ t.err = s.err ∧ t.errcode = s.errcode ∧ t.errsub = s.errsub ∧
      t.errexp = s.errexp ∧ t.erract = s.erract

/-- spec/42_transform.md R104, R105: the two-by-two table, on unsigned bytes with wraparound. -/
def Obligations.PolarityTable : Prop :=
  ∀ d k : Byte,
    (mixByte .encrypt false d k).toNat = (d.toNat + k.toNat) % 256 ∧
    (mixByte .encrypt true d k).toNat = (d.toNat + 256 - k.toNat) % 256 ∧
    (mixByte .decrypt false d k).toNat = (d.toNat + 256 - k.toNat) % 256 ∧
    (mixByte .decrypt true d k).toNat = (d.toNat + k.toNat) % 256

/-- spec/42_transform.md R106 (the schedule), with R19, R20, R24: the cipher state and the loop counters at the start
of every global step, in either direction. -/
def Obligations.ScheduleFollowsClosedForm : Prop :=
  ∀ (dir : Direction) (s t : State) (k : Nat), 4 ≤ s.klen.toNat → k < 10 * s.dlen.toNat →
    runByteSteps dir k (startTransform s) = .next t →
    t.pos = cursorAt s k ∧ t.pol = polarityAt s k ∧ t.cnt = countAt s k ∧
    t.pass * s.dlen.toNat + t.idx = k ∧ t.idx < s.dlen.toNat ∧ t.pass ≤ 9 ∧
    t.jint = jumpInterval s.cfg.jiEval s.dlen.toNat s.jfreq.toNat ∧
    t.jdist = jumpDistance s.jlen.toNat s.klen.toNat ∧
    t.pos < s.klen.toNat ∧ 1 ≤ t.cnt ∧ t.cnt ≤ t.jint

/-- spec/42_transform.md R106 (the result), R110: ENC and DEC complete, and leave the closed form's bytes, when the
cells they visit hold values. -/
def Obligations.TransformMatchesClosedForm : Prop :=
  ∀ (s : State) (blk inp : Nat → Byte), TransformReady s → visitedBlock s blk → dataIs s inp →
    (∃ t, exec .enc s = .next t ∧ TransformResult .encrypt s blk inp t) ∧
    (∃ t, exec .dec s = .next t ∧ TransformResult .decrypt s blk inp t)

/-- spec/42_transform.md R108: ENC then DEC, and DEC then ENC, restore DBUF. -/
def Obligations.EncAndDecUndoEachOther : Prop :=
  ∀ s t : State, TransformReady s →
    (exec .enc s = .next t →
      ∃ u, exec .dec t = .next u ∧ (∀ a, Memory.read u.dbuf a = Memory.read s.dbuf a) ∧ SameKeySide s u) ∧
    (exec .dec s = .next t →
      ∃ u, exec .enc t = .next u ∧ (∀ a, Memory.read u.dbuf a = Memory.read s.dbuf a) ∧ SameKeySide s u)

/-- spec/42_transform.md R114, R115: a transform past its two checks stops only on a visited cell that holds no value,
and then always. -/
def Obligations.TransformFaultsExactlyOnUnwrittenCells : Prop :=
  ∀ (s : State) (i : Instr), TransformReady s → i = .enc ∨ i = .dec →
    ((∃ sp a, exec i s = .fault (.noValue sp a)) ↔
      ((∃ t < 10 * s.dlen.toNat, Memory.read s.kbuf (7 + cursorAt s t) = none) ∨
        (∃ j < s.dlen.toNat, Memory.read s.dbuf j = none)))

/-- spec/42_transform.md R111: the output is a function of the listed inputs alone. -/
def Obligations.TransformIsAFunctionOfItsInputs : Prop :=
  ∀ (s s' t : State) (i : Instr), TransformReady s → AgreeOnInputs s s' → i = .enc ∨ i = .dec →
    exec i s = .next t →
    ∃ t', exec i s' = .next t' ∧ ∀ j < s.dlen.toNat, Memory.read t'.dbuf j = Memory.read t.dbuf j

/-- spec/70_reset_and_hazards.md R176, R171: a transform reads nothing that an earlier command left in the internal
registers or the result registers. -/
def Obligations.TransformStartsAfresh : Prop :=
  ∀ (s : State) (pos cnt jint jdist pass idx : Nat) (pol ok err : Bool) (code : BitVec 2) (sub : BitVec 4)
    (exp act : Word) (i : Instr), TransformReady s → i = .enc ∨ i = .dec →
    exec i { s with
      pos := pos, cnt := cnt, pol := pol, jint := jint, jdist := jdist, pass := pass, idx := idx
      ok := ok, err := err, errcode := code, errsub := sub, errexp := exp, erract := act } = exec i s

/-- spec/42_transform.md R112 (b): `out[i] - in[i]` is independent of all data. -/
def Obligations.ByteChangeIsIndependentOfData : Prop :=
  ∀ (s t t' : State) (db : Memory) (inp inp' : Nat → Byte) (i : Instr),
    TransformReady s → i = .enc ∨ i = .dec → dataIs s inp → dataIs { s with dbuf := db } inp' →
    exec i s = .next t → exec i { s with dbuf := db } = .next t' →
    ∀ j < s.dlen.toNat, ∃ x x', Memory.read t.dbuf j = some x ∧ Memory.read t'.dbuf j = some x' ∧
      x - inp j = x' - inp' j

/-- spec/42_transform.md R112 (d): ENC applied m times adds `m * Delta(i)`. -/
def Obligations.RepeatedEncAddsDelta : Prop :=
  ∀ (m : Nat) (s : State) (blk inp : Nat → Byte), TransformReady s → visitedBlock s blk → dataIs s inp →
    ∃ t, runOps (List.replicate m (issueOp .enc)) s = .next t ∧
      ∀ j < s.dlen.toNat, Memory.read t.dbuf j = some (BitVec.ofInt 8 ((inp j).toNat + m * delta s blk j))

/-- spec/42_transform.md R112 (e): DEC equals ENC under the key whose block bytes are negated modulo 256. -/
def Obligations.DecIsEncUnderNegatedBlock : Prop :=
  ∀ (s : State) (kb : Memory) (blk : Nat → Byte), TransformReady s → visitedBlock s blk →
    visitedBlock { s with kbuf := kb } (fun j => BitVec.ofNat 8 (256 - (blk j).toNat)) →
    writtenBelow s.dbuf s.dlen.toNat →
    ∃ t t', exec .dec s = .next t ∧ exec .enc { s with kbuf := kb } = .next t' ∧
      ∀ a, Memory.read t'.dbuf a = Memory.read t.dbuf a

/-- spec/42_transform.md R112 (f), (g): a key block of equal bytes, and of zeros. -/
def Obligations.UniformKeyBlockLaw : Prop :=
  ∀ (s : State) (c : Byte) (inp : Nat → Byte), TransformReady s → visitedBlock s (fun _ => c) → dataIs s inp →
    ∃ t u, exec .enc s = .next t ∧ exec .dec s = .next u ∧
      (∀ j < s.dlen.toNat,
        Memory.read t.dbuf j = some (BitVec.ofInt 8 ((inp j).toNat + c.toNat * passBalance s j)) ∧
        Memory.read u.dbuf j = some (BitVec.ofInt 8 ((inp j).toNat - c.toNat * passBalance s j))) ∧
      (c = 0 → ∀ a, Memory.read t.dbuf a = Memory.read s.dbuf a ∧ Memory.read u.dbuf a = Memory.read s.dbuf a)

/-- The model's choice to keep the final values of the internal registers (notes/assumptions/5.md); the values are
those of spec/42_transform.md R110, "for reference only", and the schedule of spec/41_jump_schedule.md R95. -/
def Obligations.FinalRegistersOfATransform : Prop :=
  ∀ (s t : State) (i : Instr), TransformReady s → i = .enc ∨ i = .dec → exec i s = .next t →
    t.jint = scheduleInterval s ∧ t.jdist = scheduleDistance s ∧
    t.pos = (10 * s.dlen.toNat + 10 * s.dlen.toNat / scheduleInterval s * scheduleDistance s) % s.klen.toNat ∧
    t.pol = (10 * s.dlen.toNat / scheduleInterval s % 2 == 1) ∧
    t.cnt = scheduleInterval s - 10 * s.dlen.toNat % scheduleInterval s ∧
    t.idx = s.dlen.toNat - 1 ∧ t.pass = (if s.dlen = 0 then 0 else 9)

/-- spec/42_transform.md R107, on the machine: the ten passes share the cipher state, and after the byte steps of `p`
whole passes, `p < 10`, it is the initial one for every `p` exactly when the two divisibility conditions hold. -/
def Obligations.PassesRepeatExactlyWhen : Prop :=
  ∀ (dir : Direction) (s : State) (blk : Nat → Byte), TransformReady s → visitedBlock s blk →
    writtenBelow s.dbuf s.dlen.toNat →
    ((∀ p < 10, ∃ t, runByteSteps dir (p * s.dlen.toNat) (startTransform s) = .next t ∧
        t.pos = 0 ∧ t.pol = false ∧ t.cnt = t.jint) ↔
      (2 * (startTransform s).jint ∣ s.dlen.toNat ∧
        s.klen.toNat ∣ s.dlen.toNat + s.dlen.toNat / (startTransform s).jint * (startTransform s).jdist))

/-! ## Errors -/

/-- spec/60_exceptions.md R151: a command that goes on either completes or leaves one row of the table. -/
def Obligations.CommandRecordsOneTableRow : Prop :=
  ∀ (w : Word) (s t : State), issueCommand w s = .next t →
    ((w = 1 ∨ w = 2 ∨ w = 3) ∧ RecordsSuccess t) ∨
    (w = 1 ∧ s.kbufLen.toNat < 8 ∧ RecordsError 2 4 8 s.kbufLen t) ∨
    (∃ h, w = 1 ∧ Memory.read s.kbuf 0 = some h ∧ h ≠ 0xFF ∧ RecordsError 2 1 0xFF (BitVec.ofNat 32 h.toNat) t) ∨
    (∃ hi lo, w = 1 ∧ Memory.read s.kbuf 1 = some hi ∧ Memory.read s.kbuf 2 = some lo ∧
      ((s.kbufLen.toNat ≠ 8 + (hi.toNat * 256 + lo.toNat) ∧
          RecordsError 2 3 (BitVec.ofNat 32 (8 + (hi.toNat * 256 + lo.toNat))) s.kbufLen t) ∨
        (hi.toNat * 256 + lo.toNat < 4 ∧
          RecordsError 2 5 4 (BitVec.ofNat 32 (hi.toNat * 256 + lo.toNat)) t) ∨
        (∃ f, Memory.read s.kbuf (7 + (hi.toNat * 256 + lo.toNat)) = some f ∧ f ≠ 0x00 ∧
          RecordsError 2 2 0 (BitVec.ofNat 32 f.toNat) t))) ∨
    ((w = 2 ∨ w = 3) ∧ s.kvalid = false ∧ RecordsError 2 6 0 0 t) ∨
    ((w = 2 ∨ w = 3) ∧ s.cfg.dmax.toNat < s.dlen.toNat ∧ RecordsError 1 8 s.cfg.dmax s.dlen t) ∨
    (w ≠ 1 ∧ w ≠ 2 ∧ w ≠ 3 ∧ RecordsError 1 7 0 w t)

/-- spec/60_exceptions.md R155, R153: a failed command leaves the buffers, the lengths and the internal registers; the
decoded key is withdrawn by KDEC and unchanged by any other word. -/
def Obligations.FailedCommandChangesOnlyTheRecord : Prop :=
  ∀ (w : Word) (s t : State), issueCommand w s = .next t → t.err = true →
    SameButRecordAndKey s t ∧
    (w = 1 → t.kvalid = false) ∧
    (w ≠ 1 → t.kvalid = s.kvalid ∧ t.klen = s.klen ∧ t.jfreq = s.jfreq ∧ t.jlen = s.jlen)

/-- spec/60_exceptions.md R156 for ENC and DEC, and R157: with no key and too much data the error is NOKEY, and the
engine stays usable. -/
def Obligations.NokeyComesBeforeDlenRange : Prop :=
  ∀ s : State, s.kvalid = false → s.cfg.dmax.toNat < s.dlen.toNat →
    ∃ t, exec .enc s = .next t ∧ exec .dec s = .next t ∧ t.errcode = 2 ∧ t.errsub = 6 ∧
      hostStep (writeOp .dlen 0) t = .next { t with dlen := 0 }

/-! ## The host's accesses -/

/-- spec/10_state.md R11 to R15, R27 to R30: what a read of each register returns, and that it changes nothing. -/
def Obligations.RegisterReadsReturnTheirContent : Prop :=
  ∀ s : State,
    hostStep (.readReg 0x00) s = .next (answer (.reg 0) s) ∧
    hostStep (.readReg 0x04) s =
      .next (answer (.reg (BitVec.ofNat 32 (s.kvalid.toNat + 2 * s.ok.toNat + 4 * s.err.toNat))) s) ∧
    hostStep (.readReg 0x08) s = .next (answer (.reg (BitVec.ofNat 32 s.errcode.toNat)) s) ∧
    hostStep (.readReg 0x0C) s = .next (answer (.reg (BitVec.ofNat 32 s.errsub.toNat)) s) ∧
    hostStep (.readReg 0x10) s = .next (answer (.reg s.errexp) s) ∧
    hostStep (.readReg 0x14) s = .next (answer (.reg s.erract) s) ∧
    hostStep (.readReg 0x18) s = .next (answer (.reg s.kbufLen) s) ∧
    hostStep (.readReg 0x1C) s = .next (answer (.reg s.dlen) s) ∧
    hostStep (.readReg 0x20) s =
      .next (answer (.reg (if s.kvalid then BitVec.ofNat 32 s.klen.toNat else 0)) s) ∧
    hostStep (.readReg 0x24) s =
      .next (answer (.reg (if s.kvalid then BitVec.ofNat 32 s.jfreq.toNat else 0)) s) ∧
    hostStep (.readReg 0x28) s =
      .next (answer (.reg (if s.kvalid then BitVec.ofNat 32 s.jlen.toNat else 0)) s)

/-- spec/10_state.md R12, R18, R25: what a write of each register other than CMD does. -/
def Obligations.RegisterWritesStoreOrAreIgnored : Prop :=
  ∀ (s : State) (v : Word),
    hostStep (.writeReg 0x18 v) s = .next { s with kbufLen := v, kvalid := false } ∧
    hostStep (.writeReg 0x1C v) s = .next { s with dlen := v } ∧
    (∀ off ∈ [0x04, 0x08, 0x0C, 0x10, 0x14, 0x20, 0x24, 0x28], hostStep (.writeReg off v) s = .next s)

/-- spec/20_memory.md R42, with spec/93_implementation_defined.md U2: byte accesses to existing cells. A read of a cell
without a value returns some byte; the counter it may advance is the model's own (notes/assumptions/7.md). -/
def Obligations.ByteAccessesReadAndWriteOneCell : Prop :=
  ∀ (s : State) (a : Nat) (v : Byte),
    (a < 65543 → ∃ m, hostStep (.writeByte .kbuf a v) s = .next { s with kbuf := m, kvalid := false } ∧
      ∀ b, Memory.read m b = if b = a then some v else Memory.read s.kbuf b) ∧
    (a < s.cfg.dmax.toNat → ∃ m, hostStep (.writeByte .dbuf a v) s = .next { s with dbuf := m } ∧
      ∀ b, Memory.read m b = if b = a then some v else Memory.read s.dbuf b) ∧
    (∀ sp, a < capacityOf sp s → Memory.read (bufferOf sp s) a = some v →
      hostStep (.readByte sp a) s = .next (answer (.byte v) s)) ∧
    (∀ sp, a < capacityOf sp s → Memory.read (bufferOf sp s) a = none →
      ∃ x n, hostStep (.readByte sp a) s =
        .next { s with host := { s.host with answers := .byte x :: s.host.answers, freeReads := n } })

/-- spec/20_memory.md R47, spec/93_implementation_defined.md U3: an operation is refused exactly when it names no
existing cell or register, and every other access but a CMD write succeeds. -/
def Obligations.RefusedExactlyOutsideTheMap : Prop :=
  ∀ (op : HostOp) (s : State),
    ((∃ r, hostStep op s = .refused r) ↔ op.wellFormed s.cfg.dmax = false) ∧
    (op.wellFormed s.cfg.dmax = true → (∀ w, op ≠ .writeReg 0x00 w) → ∃ t, hostStep op s = .next t)

/-- spec/10_state.md R34, spec/70_reset_and_hazards.md R170: what reset leaves, for the reset input in any state and
for `State.reset`. -/
def Obligations.ResetLeavesTheStatedValues : Prop :=
  (∀ s : State, ∃ t, hostStep .reset s = .next t ∧ t.cfg = s.cfg ∧ t.host = s.host ∧ t.kvalid = false ∧
    (∀ r, readRegister r t = 0) ∧ (∀ sp a, Memory.read (bufferOf sp t) a = none)) ∧
  (∀ r, readRegister r State.reset = 0) ∧ State.reset.kvalid = false ∧
  (∀ sp a, Memory.read (bufferOf sp State.reset) a = none)

/-- spec/10_state.md R17: what sets KVALID and what clears it. -/
def Obligations.KvalidChangesOnlyAsStated : Prop :=
  ∀ (op : HostOp) (s t : State), hostStep op s = .next t →
    (s.kvalid = false → t.kvalid = true → op = .writeReg 0x00 1 ∧ t.ok = true) ∧
    (s.kvalid = true → t.kvalid = false →
      op = .reset ∨ (op = .writeReg 0x00 1 ∧ t.err = true) ∨ (∃ a v, op = .writeByte .kbuf a v) ∨
        ∃ v, op = .writeReg 0x18 v) ∧
    (op = .reset ∨ (op = .writeReg 0x00 1 ∧ t.err = true) ∨ (∃ a v, op = .writeByte .kbuf a v) ∨
        (∃ v, op = .writeReg 0x18 v) → t.kvalid = false)

/-- spec/10_state.md R27: the bits of STATUS. -/
def Obligations.StatusBits : Prop :=
  ∀ s : State, (readRegister .status s).getLsbD 0 = s.kvalid ∧ (readRegister .status s).getLsbD 1 = s.ok ∧
    (readRegister .status s).getLsbD 2 = s.err ∧ ∀ j, 3 ≤ j → (readRegister .status s).getLsbD j = false

/-- spec/30_encoding.md R69: LOADK and LOADD. -/
def Obligations.LoadMacrosFillTheBuffers : Prop :=
  ∀ (s : State) (bytes : List Byte),
    (bytes.length ≤ 65543 → ∃ m, runOps (loadK bytes) s =
        .next { s with kbuf := m, kbufLen := BitVec.ofNat 32 bytes.length, kvalid := false } ∧
      holdsAt m 0 bytes ∧ ∀ a, bytes.length ≤ a → Memory.read m a = Memory.read s.kbuf a) ∧
    (bytes.length ≤ s.cfg.dmax.toNat → ∃ m, runOps (loadD bytes) s =
        .next { s with dbuf := m, dlen := BitVec.ofNat 32 bytes.length } ∧
      holdsAt m 0 bytes ∧ ∀ a, bytes.length ≤ a → Memory.read m a = Memory.read s.dbuf a)

/-- spec/30_encoding.md R69: READD returns the bytes of DBUF in order and changes nothing else. -/
def Obligations.ReaddReturnsTheData : Prop :=
  ∀ (s : State) (bytes : List Byte), bytes.length ≤ s.cfg.dmax.toNat → holdsAt s.dbuf 0 bytes →
    runOps (readD bytes.length) s = .next { s with
      host := { s.host with answers := (bytes.map HostAnswer.byte).reverse ++ s.host.answers } }

/-- spec/20_memory.md R48: issuing operations one step at a time is running them in order; what the host will do
later changes nothing. -/
def Obligations.StepsRunPendingOperationsInOrder : Prop :=
  ∀ (ops rest : List HostOp) (s : State),
    Host.Core.run Sys2Proof.core ops.length (withPending (ops ++ rest) s) =
      match runOps ops s with
      | .next t => .next (withPending rest t)
      | .fault f => .fault f
      | .refused r => .refused r

/-! ## The whole machine -/

/-- The invariant holds after reset (spec/10_state.md R34, R35); that the internal registers hold 0 there is the
model's choice (notes/assumptions/4.md). -/
def Obligations.InvariantHoldsAtReset : Prop := Inv State.reset

/-- Every step keeps the invariant (spec/10_state.md R35, with the widths of R19 to R24 and the table of
spec/60_exceptions.md R151). -/
def Obligations.StepKeepsTheInvariant : Prop :=
  ∀ s t : State, Inv s → step s = .next t → Inv t

/-- No step changes the parameters of the instance (spec/00_scope.md R6). -/
def Obligations.StepKeepsTheParameters : Prop :=
  ∀ s t : State, step s = .next t → t.cfg = s.cfg

/-- spec/70_reset_and_hazards.md R179, R182: with every byte of the Key and of the data written, every command ends
in a next state. -/
def Obligations.WrittenBuffersLetEveryCommandEnd : Prop :=
  ∀ (s : State) (i : Instr), Inv s → writtenBelow s.kbuf (min s.kbufLen.toNat 65543) →
    (s.dlen.toNat ≤ s.cfg.dmax.toNat → writtenBelow s.dbuf s.dlen.toNat) → ∃ t, exec i s = .next t

/-- spec/70_reset_and_hazards.md R172, spec/42_transform.md R108: from any state, reset, load and decode any Key,
load any data, encrypt and decrypt: the data is back. -/
def Obligations.BringUpThenRoundTrip : Prop :=
  ∀ (s : State) (jf : Byte) (jl : BitVec 24) (blk data : List Byte),
    4 ≤ blk.length → blk.length ≤ 65535 → data.length ≤ s.cfg.dmax.toNat →
    ∃ t u, runOps ([.reset] ++ loadK (keyEncode jf jl blk) ++ [issueOp .kdec] ++ loadD data ++ [issueOp .enc]) s =
        .next t ∧ readRegister .status t = 3 ∧
      runOps [issueOp .dec] t = .next u ∧ readRegister .status u = 3 ∧ holdsAt u.dbuf 0 data ∧
      readRegister .klen u = BitVec.ofNat 32 blk.length ∧ readRegister .jfreq u = BitVec.ofNat 32 jf.toNat ∧
      readRegister .jlen u = BitVec.ofNat 32 jl.toNat

/-- spec/43_host_procedures.md R123, R124 (host side): the Key that convert_key makes decodes to its fields. -/
def Obligations.ConvertedKeyDecodes : Prop :=
  ∀ (s : State) (p : List Byte) (h4 : 4 ≤ p.length), p.length ≤ 65535 →
    ∃ k t, convertKey p = .ok k ∧ loadKey (some k) s = .done k t ∧ t.kvalid = true ∧ t.klen.toNat = p.length ∧
      t.jfreq = p[0] ∧ t.jlen.toNat = p[1].toNat * 65536 + p[2].toNat * 256 + p[3].toNat ∧
      ∀ j (h : j < p.length), keyBlock t j = some p[j]

/-! ## Host procedures (outside the block) -/

/-- spec/30_encoding.md R69, spec/43_host_procedures.md R132 (host side): decode_key answers the decoded fields, or
fails with the diagnostic that the error registers hold. -/
def Obligations.DecodeKeyAnswersFieldsOrDiagnostic : Prop :=
  ∀ (s : State) (bytes : List Byte), bytes.length ≤ 65543 →
    ∃ t, t.kbufLen = BitVec.ofNat 32 bytes.length ∧ holdsAt t.kbuf 0 bytes ∧
      ((t.kvalid = true ∧ t.err = false ∧ runOps (decodeKeyOps bytes ++ keyFieldReads) s = .next t ∧
          decodeKey bytes s =
            .done { klen := BitVec.ofNat 32 t.klen.toNat, jfreq := BitVec.ofNat 32 t.jfreq.toNat
                    jlen := BitVec.ofNat 32 t.jlen.toNat } t) ∨
        (t.kvalid = false ∧ t.err = true ∧ runOps (decodeKeyOps bytes ++ errorRecordReads) s = .next t ∧
          decodeKey bytes s = .failed { kind := .invalidFormat
                                        cause := .block (BitVec.ofNat 32 t.errsub.toNat) t.errexp t.erract } t))

/-- spec/30_encoding.md R69 (host side): transform with a decoded key runs its whole expansion and answers the bytes of
DBUF. Without a decoded key it fails with the diagnostic of NOKEY; that the host then reads the four error registers in
place of READD is the model's choice (notes/assumptions/18.md), as R69 lists these reads for decode_key only. -/
def Obligations.TransformProcedureRunsItsExpansion : Prop :=
  ∀ (dir : Direction) (s : State) (data : List Byte), data.length ≤ s.cfg.dmax.toNat →
    (s.kvalid = true → 4 ≤ s.klen.toNat → (∀ j < s.klen.toNat, (keyBlock s j).isSome) →
      ∃ out t, transformOnBlock dir data s = .done out t ∧ runOps (transformOps dir data) s = .next t ∧
        out.length = data.length ∧ holdsAt t.dbuf 0 out ∧ t.kvalid = true ∧ t.ok = true) ∧
    (s.kvalid = false →
      ∃ t, transformOnBlock dir data s = .failed { kind := .invalidFormat, cause := .block 6 0 0 } t ∧
        runOps (transformToStatusOps dir data ++ errorRecordReads) s = .next t)

/-- spec/43_host_procedures.md R125 (host side): while the storage can be read, the separator is the fresh token of
the smallest length from 3 to 64 that has no line terminator and occurs in no 1 KiB increment of the input. -/
def Obligations.SeparatorIsTheShortestThatFits : Prop :=
  ∀ (st : Storage) (p : CodecParams) (draw : Nat → Nat → Byte) (x : Session), (∀ n, st.readOk n = true) →
    (∀ n, 3 ≤ n → n ≤ 64 → separatorFits st p (tokenOf draw n) →
      (∀ k, 3 ≤ k → k < n → ¬ separatorFits st p (tokenOf draw k)) →
      (tokenOf draw n).length = n ∧ ∃ y, chooseSeparator st p draw x = .done (tokenOf draw n) y) ∧
    ((∀ n, 3 ≤ n → n ≤ 64 → ¬ separatorFits st p (tokenOf draw n)) →
      ∃ y, chooseSeparator st p draw x =
        .failed { kind := p.separatorFailure.kind, cause := .noSeparator 3 64 } y)

/-- spec/43_host_procedures.md R129 (host side): both streams stop at the first access to the storage that fails, be it
a read or a write: it is the last access of either kind that they try, and they report it as IOFailure. Both handles are
released on every exit path. Nothing is said about the output after a failure (notes/assumptions/25.md). -/
def Obligations.CodecStopsAtTheFirstStorageFailure : Prop :=
  ∀ (st : Storage) (p : CodecParams) (draw : Nat → Nat → Byte) (key : List Byte) (s : State)
    (e : ProcEnd Session Unit), e = encryptStream st p draw key s ∨ e = decryptStream st p key s →
    e.state.files.inputOpen = false ∧ e.state.files.outputOpen = false ∧
    (∀ n, n + 1 < e.state.files.reads → st.readOk n = true) ∧
    (∀ n, n + 1 < e.state.files.writes → st.writeOk n = true) ∧
    (∀ n, n + 1 = e.state.files.reads → st.readOk n = false → e.state.files.journal.head? = some .read) ∧
    (∀ n, n + 1 = e.state.files.writes → st.writeOk n = false → e.state.files.journal.head? = some .write) ∧
    ((∃ x, e = .failed { kind := .ioFailure, cause := .storage } x) ↔
      ((∃ n, n + 1 = e.state.files.reads ∧ st.readOk n = false) ∨
        (∃ n, n + 1 = e.state.files.writes ∧ st.writeOk n = false)))

/-- spec/43_host_procedures.md R120, R121, R132 (host side): generate_key refuses exactly the arguments outside their
domains, with the bounds and the actual value, and makes a Key with the overrides in place. The upper bound of a
jump_length override is the model's choice (notes/assumptions/21.md), as is which of several bad arguments is reported
(notes/assumptions/18.md). -/
def Obligations.GenerateKeyChecksItsArguments : Prop :=
  ∀ (draw : Nat → Byte) (klen jf : Int) (jl : Option Int),
    (klen < 4 ∨ 65535 < klen → generateKey draw klen jf jl =
      .error { kind := .invalidArgument, cause := .outside .keyLength 4 65535 klen }) ∧
    (4 ≤ klen → klen ≤ 65535 → jf ≠ -1 → jf < 1 ∨ 255 < jf → generateKey draw klen jf jl =
      .error { kind := .invalidArgument, cause := .outside .jumpFrequency 1 255 jf }) ∧
    (4 ≤ klen → klen ≤ 65535 → jf = -1 ∨ (1 ≤ jf ∧ jf ≤ 255) →
      (∀ v, jl = some v → v < 0 ∨ 16777215 < v → generateKey draw klen jf jl =
        .error { kind := .invalidArgument, cause := .outside .jumpLength 0 16777215 v }) ∧
      ((∀ v, jl = some v → 0 ≤ v ∧ v ≤ 16777215) →
        ∃ f l blk, generateKey draw klen jf jl = .ok (keyEncode f l blk) ∧ blk.length = klen.toNat ∧
          (jf ≠ -1 → (f.toNat : Int) = jf) ∧ (∀ v, jl = some v → (l.toNat : Int) = v)))
end

