-- ==== Sys2Proof/Laws/Codec.lean ====
section
/-!
SUPPORT. What the shared operations of the host procedures can do, said once: going on, reading, writing, releasing.
-/

namespace Sys2Proof.Machine

@[simp] theorem ProcEnd.andThen_done {σ α β : Type} (a : α) (s : σ) (k : α → σ → ProcEnd σ β) :
    (ProcEnd.done a s).andThen k = k a s := rfl
@[simp] theorem ProcEnd.andThen_failed {σ α β : Type} (r : ErrorReport) (s : σ) (k : α → σ → ProcEnd σ β) :
    (ProcEnd.failed r s).andThen k = .failed r s := rfl
@[simp] theorem ProcEnd.andThen_stopped {σ α β : Type} (f : Fault) (s : σ) (k : α → σ → ProcEnd σ β) :
    (ProcEnd.stopped f s).andThen k = .stopped f s := rfl
@[simp] theorem ProcEnd.andThen_refused {σ α β : Type} (r : Refusal) (s : σ) (k : α → σ → ProcEnd σ β) :
    (ProcEnd.refused r s).andThen k = .refused r s := rfl
@[simp] theorem ProcEnd.mapState_done {σ τ α : Type} (g : σ → τ) (a : α) (s : σ) :
    (ProcEnd.done a s).mapState g = .done a (g s) := rfl
@[simp] theorem ProcEnd.mapState_failed {σ τ α : Type} (g : σ → τ) (r : ErrorReport) (s : σ) :
    (ProcEnd.failed (α := α) r s).mapState g = .failed r (g s) := rfl
@[simp] theorem ProcEnd.mapState_stopped {σ τ α : Type} (g : σ → τ) (f : Fault) (s : σ) :
    (ProcEnd.stopped (α := α) f s).mapState g = .stopped f (g s) := rfl
@[simp] theorem ProcEnd.mapState_refused {σ τ α : Type} (g : σ → τ) (r : Refusal) (s : σ) :
    (ProcEnd.refused (α := α) r s).mapState g = .refused r (g s) := rfl
@[simp] theorem ProcEnd.state_mapState {σ τ α : Type} (g : σ → τ) (e : ProcEnd σ α) :
    (e.mapState g).state = g e.state := by cases e <;> rfl

/-- A procedure that goes on and is done was done at both parts. -/
theorem ProcEnd.andThen_eq_done {σ α β : Type} {e : ProcEnd σ α} {k : α → σ → ProcEnd σ β} {b : β} {t : σ}
    (h : e.andThen k = .done b t) : ∃ a s, e = .done a s ∧ k a s = .done b t := by
  cases e with
  | done a s => exact ⟨a, s, rfl, h⟩
  | failed r s => cases h
  | stopped f s => cases h
  | refused r s => cases h

/-- Host operations that go on are done; the answers are those since the start. -/
theorem runHost_done {ops : List HostOp} {s t : State} (h : runOps ops s = .next t) :
    runHost ops s = .done (newAnswers s t) t := by simp [runHost, h]

@[simp] theorem noteAccess_block (a : FileAccess) (x : Session) : (noteAccess a x).block = x.block := rfl
@[simp] theorem noteAccess_inputOpen (a : FileAccess) (x : Session) :
    (noteAccess a x).files.inputOpen = x.files.inputOpen := rfl
@[simp] theorem noteAccess_outputOpen (a : FileAccess) (x : Session) :
    (noteAccess a x).files.outputOpen = x.files.outputOpen := rfl
@[simp] theorem noteAccess_unread (a : FileAccess) (x : Session) :
    (noteAccess a x).files.unread = x.files.unread := rfl
@[simp] theorem noteAccess_journal (a : FileAccess) (x : Session) :
    (noteAccess a x).files.journal = a :: x.files.journal := rfl
@[simp] theorem noteAccess_written (a : FileAccess) (x : Session) :
    (noteAccess a x).files.written = x.files.written := rfl
@[simp] theorem noteAccess_read_reads (x : Session) : (noteAccess .read x).files.reads = x.files.reads + 1 := by
  simp [Files.reads]
@[simp] theorem noteAccess_read_writes (x : Session) : (noteAccess .read x).files.writes = x.files.writes := by
  simp [Files.writes]
@[simp] theorem noteAccess_write_reads (x : Session) : (noteAccess .write x).files.reads = x.files.reads := by
  simp [Files.reads]
@[simp] theorem noteAccess_write_writes (x : Session) : (noteAccess .write x).files.writes = x.files.writes + 1 := by
  simp [Files.writes]

/-- A read notes itself, touches neither the block nor the output, and succeeds exactly when the storage does. -/
theorem readInput_cases {α : Type} (st : Storage) (split : List Byte → α × List Byte) (x : Session) :
    (st.readOk x.files.reads = true ∧ readInput st split x = .done (split x.files.unread).1
      { x with files := { x.files with journal := .read :: x.files.journal, unread := (split x.files.unread).2 } }) ∨
    (st.readOk x.files.reads = false ∧ readInput st split x = .failed storageFailure (noteAccess .read x)) := by
  cases h : st.readOk x.files.reads <;> simp [readInput, h, noteAccess]

/-- A write notes itself, touches neither the block nor the input, and appends exactly when the storage succeeds. -/
theorem writeOutput_cases (st : Storage) (bytes : List Byte) (x : Session) :
    (st.writeOk x.files.writes = true ∧ writeOutput st bytes x = .done ()
      { x with files := { x.files with journal := .write :: x.files.journal, written := x.files.written ++ bytes } }) ∨
    (st.writeOk x.files.writes = false ∧ writeOutput st bytes x = .failed storageFailure (noteAccess .write x)) := by
  cases h : st.writeOk x.files.writes <;> simp [writeOutput, h, noteAccess]

/-- Using the block leaves the files as they are. -/
theorem onBlock_files {α : Type} (proc : State → ProcEnd State α) (x : Session) :
    (onBlock proc x).state.files = x.files := by simp [onBlock]

/-- How a call ends: done with its output kept, or undone with any output; the block, the accesses tried and the
unread input are the call's, and both handles are released. -/
theorem withHandles_cases {α : Type} (st : Storage) (call : Session → ProcEnd Session α) (s : State) :
    (∃ a x, call (openSession st s) = .done a x ∧ withHandles st call s = .done a (releaseHandles x)) ∨
    (∃ r x, call (openSession st s) = .failed r x ∧
      withHandles st call s = .failed r (releaseHandles (losePartialOutput st x))) ∨
    (∃ f x, call (openSession st s) = .stopped f x ∧
      withHandles st call s = .stopped f (releaseHandles (losePartialOutput st x))) ∨
    (∃ r x, call (openSession st s) = .refused r x ∧
      withHandles st call s = .refused r (releaseHandles (losePartialOutput st x))) := by
  cases h : call (openSession st s) <;> simp [withHandles, h, ProcEnd.mapUndone]

/-- Both handles are released whichever way a call ends. -/
theorem withHandles_released {α : Type} (st : Storage) (call : Session → ProcEnd Session α) (s : State) :
    (withHandles st call s).state.files.inputOpen = false ∧ (withHandles st call s).state.files.outputOpen = false := by
  simp [withHandles, releaseHandles]

/-- A token has the length asked for. -/
@[simp] theorem tokenOf_length (draw : Nat → Nat → Byte) (len : Nat) : (tokenOf draw len).length = len := by
  simp [tokenOf]

/-- The search for an occurrence finds exactly the infixes. -/
theorem occursIn_iff (sub l : List Byte) : occursIn sub l = true ↔ sub <:+: l := by
  induction l with
  | nil => simp [occursIn]
  | cons b bs ih => simp [occursIn, ih, List.infix_cons_iff]

end Sys2Proof.Machine
end

