-- ==== Sys2Proof/Laws/Memory.lean ====
section
/-!
SUPPORT. The laws of a buffer: a read after a write, and that every operation keeps the canonical form.
-/

namespace Sys2Proof.Machine

@[simp] theorem Memory.read_nil (a : Nat) : Memory.read [] a = none := rfl

theorem Memory.read_cons (b : Nat) (v : Byte) (m : Memory) (a : Nat) :
    Memory.read ((b, v) :: m) a = if a = b then some v else Memory.read m a := rfl

/-- A read after a write: the written value at its address, the old one everywhere else. -/
theorem Memory.read_write (m : Memory) (a : Nat) (v : Byte) (b : Nat) :
    Memory.read (Memory.write m a v) b = if b = a then some v else Memory.read m b := by
  induction m with
  | nil => simp [Memory.write, Memory.read]
  | cons c m ih =>
    obtain ⟨c, w⟩ := c
    simp only [Memory.write]
    split
    · simp [Memory.read]
    · split
      · subst_vars
        simp only [Memory.read]
        split <;> rfl
      · rename_i hne
        simp only [Memory.read, ih]
        split
        · subst_vars
          simp [Ne.symm hne]
        · rfl

@[simp] theorem Memory.read_write_same (m : Memory) (a : Nat) (v : Byte) :
    Memory.read (Memory.write m a v) a = some v := by simp [Memory.read_write]

theorem Memory.read_write_other (m : Memory) (a : Nat) (v : Byte) (b : Nat) (h : b ≠ a) :
    Memory.read (Memory.write m a v) b = Memory.read m b := by simp [Memory.read_write, h]

/-- A write below the capacity keeps addresses rising from any bound below the written address. -/
theorem Memory.wfFrom_write (cap : Nat) (m : Memory) (lo a : Nat) (v : Byte) (hlo : lo ≤ a) (hcap : a < cap)
    (h : Memory.wfFrom cap lo m = true) : Memory.wfFrom cap lo (Memory.write m a v) = true := by
  induction m generalizing lo with
  | nil => simp [Memory.write, Memory.wfFrom, hlo, hcap]
  | cons c m ih =>
    obtain ⟨c, w⟩ := c
    simp only [Memory.wfFrom, Bool.and_eq_true, decide_eq_true_eq] at h
    obtain ⟨⟨hl, hc⟩, hm⟩ := h
    simp only [Memory.write]
    split
    · rename_i hlt
      simp [Memory.wfFrom, hlo, hcap, hc, hm, Nat.succ_le_of_lt hlt]
    · split
      · subst_vars
        simp [Memory.wfFrom, hl, hc, hm]
      · rename_i hn hne
        simp only [Memory.wfFrom, Bool.and_eq_true, decide_eq_true_eq]
        exact ⟨⟨hl, hc⟩, ih (c + 1) (by omega) hm⟩

/-- A host write and a byte step keep the canonical form. -/
theorem Memory.wf_write (cap : Nat) (m : Memory) (a : Nat) (v : Byte) (hcap : a < cap)
    (h : Memory.wf cap m = true) : Memory.wf cap (Memory.write m a v) = true :=
  Memory.wfFrom_write cap m 0 a v (Nat.zero_le _) hcap h

/-- The empty buffer, which reset leaves, is in canonical form. -/
@[simp] theorem Memory.wf_nil (cap : Nat) : Memory.wf cap [] = true := rfl

theorem reset_memory_wf : Memory.wf Config.kcap State.reset.kbuf = true ∧
    Memory.wf State.reset.cfg.dmax.toNat State.reset.dbuf = true := ⟨rfl, rfl⟩

/-- A cell below the lower bound of the canonical form holds no value. -/
theorem Memory.read_below (cap : Nat) (m : Memory) (lo a : Nat) (h : Memory.wfFrom cap lo m = true)
    (ha : a < lo) : Memory.read m a = none := by
  induction m generalizing lo with
  | nil => rfl
  | cons c m ih =>
    obtain ⟨c, w⟩ := c
    simp only [Memory.wfFrom, Bool.and_eq_true, decide_eq_true_eq] at h
    simp only [Memory.read]
    rw [if_neg (by omega)]
    exact ih (c + 1) h.2 (by omega)

/-- No cell at or above the capacity holds a value. -/
theorem Memory.read_beyond (cap : Nat) (m : Memory) (lo a : Nat) (h : Memory.wfFrom cap lo m = true)
    (ha : cap ≤ a) : Memory.read m a = none := by
  induction m generalizing lo with
  | nil => rfl
  | cons c m ih =>
    obtain ⟨c, w⟩ := c
    simp only [Memory.wfFrom, Bool.and_eq_true, decide_eq_true_eq] at h
    simp only [Memory.read]
    rw [if_neg (by omega)]
    exact ih (c + 1) h.2

/-- Buffers in canonical form that read alike are equal. -/
theorem Memory.ext_read (cap : Nat) (m m' : Memory) (lo : Nat) (h : Memory.wfFrom cap lo m = true)
    (h' : Memory.wfFrom cap lo m' = true) (hr : ∀ a, Memory.read m a = Memory.read m' a) : m = m' := by
  induction m generalizing lo m' with
  | nil =>
    cases m' with
    | nil => rfl
    | cons c m' => simpa [Memory.read, unlistedCell] using hr c.1
  | cons c m ih =>
    obtain ⟨c, w⟩ := c
    cases m' with
    | nil => simpa [Memory.read, unlistedCell] using hr c
    | cons c' m' =>
      obtain ⟨c', w'⟩ := c'
      simp only [Memory.wfFrom, Bool.and_eq_true, decide_eq_true_eq] at h h'
      have hcc : c = c' := by
        rcases Nat.lt_trichotomy c c' with hlt | heq | hgt
        · have := hr c
          have hb := Memory.read_below cap m' (c' + 1) c h'.2 (by omega)
          simp [Memory.read, hb, Nat.ne_of_lt hlt] at this
        · exact heq
        · have := hr c'
          have hb := Memory.read_below cap m (c + 1) c' h.2 (by omega)
          simp [Memory.read, hb, Nat.ne_of_lt hgt] at this
      subst hcc
      have hw : w = w' := by simpa [Memory.read] using hr c
      subst hw
      congr 1
      refine ih m' (c + 1) h.2 h'.2 fun a => ?_
      by_cases hac : a = c
      · subst hac
        rw [Memory.read_below cap m (a + 1) a h.2 (by omega), Memory.read_below cap m' (a + 1) a h'.2 (by omega)]
      · simpa [Memory.read, hac] using hr a

end Sys2Proof.Machine
end

