-- ==== Sys2Proof/Laws/State.lean ====
section
/-!
SUPPORT. What each shared update of the state does to each field: one lemma per field per update, true by `rfl`.
-/

namespace Sys2Proof.Machine

@[simp] theorem withdrawKey_cfg (s : State) : (withdrawKey s).cfg = s.cfg := rfl
@[simp] theorem withdrawKey_kvalid (s : State) : (withdrawKey s).kvalid = false := rfl
@[simp] theorem withdrawKey_ok (s : State) : (withdrawKey s).ok = s.ok := rfl
@[simp] theorem withdrawKey_err (s : State) : (withdrawKey s).err = s.err := rfl
@[simp] theorem withdrawKey_errcode (s : State) : (withdrawKey s).errcode = s.errcode := rfl
@[simp] theorem withdrawKey_errsub (s : State) : (withdrawKey s).errsub = s.errsub := rfl
@[simp] theorem withdrawKey_errexp (s : State) : (withdrawKey s).errexp = s.errexp := rfl
@[simp] theorem withdrawKey_erract (s : State) : (withdrawKey s).erract = s.erract := rfl
@[simp] theorem withdrawKey_kbufLen (s : State) : (withdrawKey s).kbufLen = s.kbufLen := rfl
@[simp] theorem withdrawKey_dlen (s : State) : (withdrawKey s).dlen = s.dlen := rfl
@[simp] theorem withdrawKey_klen (s : State) : (withdrawKey s).klen = s.klen := rfl
@[simp] theorem withdrawKey_jfreq (s : State) : (withdrawKey s).jfreq = s.jfreq := rfl
@[simp] theorem withdrawKey_jlen (s : State) : (withdrawKey s).jlen = s.jlen := rfl
@[simp] theorem withdrawKey_kbuf (s : State) : (withdrawKey s).kbuf = s.kbuf := rfl
@[simp] theorem withdrawKey_dbuf (s : State) : (withdrawKey s).dbuf = s.dbuf := rfl
@[simp] theorem withdrawKey_pos (s : State) : (withdrawKey s).pos = s.pos := rfl
@[simp] theorem withdrawKey_cnt (s : State) : (withdrawKey s).cnt = s.cnt := rfl
@[simp] theorem withdrawKey_pol (s : State) : (withdrawKey s).pol = s.pol := rfl
@[simp] theorem withdrawKey_jint (s : State) : (withdrawKey s).jint = s.jint := rfl
@[simp] theorem withdrawKey_jdist (s : State) : (withdrawKey s).jdist = s.jdist := rfl
@[simp] theorem withdrawKey_pass (s : State) : (withdrawKey s).pass = s.pass := rfl
@[simp] theorem withdrawKey_idx (s : State) : (withdrawKey s).idx = s.idx := rfl
@[simp] theorem withdrawKey_host (s : State) : (withdrawKey s).host = s.host := rfl

@[simp] theorem raiseError_cfg (kind : ErrKind) (sub : ErrSub) (exp act : Word) (s : State) : (raiseError kind sub exp act s).cfg = s.cfg := rfl
@[simp] theorem raiseError_kvalid (kind : ErrKind) (sub : ErrSub) (exp act : Word) (s : State) : (raiseError kind sub exp act s).kvalid = s.kvalid := rfl
@[simp] theorem raiseError_ok (kind : ErrKind) (sub : ErrSub) (exp act : Word) (s : State) : (raiseError kind sub exp act s).ok = false := rfl
@[simp] theorem raiseError_err (kind : ErrKind) (sub : ErrSub) (exp act : Word) (s : State) : (raiseError kind sub exp act s).err = true := rfl
@[simp] theorem raiseError_errcode (kind : ErrKind) (sub : ErrSub) (exp act : Word) (s : State) : (raiseError kind sub exp act s).errcode = errKindCode kind := rfl
@[simp] theorem raiseError_errsub (kind : ErrKind) (sub : ErrSub) (exp act : Word) (s : State) : (raiseError kind sub exp act s).errsub = errSubCode sub := rfl
@[simp] theorem raiseError_errexp (kind : ErrKind) (sub : ErrSub) (exp act : Word) (s : State) : (raiseError kind sub exp act s).errexp = exp := rfl
@[simp] theorem raiseError_erract (kind : ErrKind) (sub : ErrSub) (exp act : Word) (s : State) : (raiseError kind sub exp act s).erract = act := rfl
@[simp] theorem raiseError_kbufLen (kind : ErrKind) (sub : ErrSub) (exp act : Word) (s : State) : (raiseError kind sub exp act s).kbufLen = s.kbufLen := rfl
@[simp] theorem raiseError_dlen (kind : ErrKind) (sub : ErrSub) (exp act : Word) (s : State) : (raiseError kind sub exp act s).dlen = s.dlen := rfl
@[simp] theorem raiseError_klen (kind : ErrKind) (sub : ErrSub) (exp act : Word) (s : State) : (raiseError kind sub exp act s).klen = s.klen := rfl
@[simp] theorem raiseError_jfreq (kind : ErrKind) (sub : ErrSub) (exp act : Word) (s : State) : (raiseError kind sub exp act s).jfreq = s.jfreq := rfl
@[simp] theorem raiseError_jlen (kind : ErrKind) (sub : ErrSub) (exp act : Word) (s : State) : (raiseError kind sub exp act s).jlen = s.jlen := rfl
@[simp] theorem raiseError_kbuf (kind : ErrKind) (sub : ErrSub) (exp act : Word) (s : State) : (raiseError kind sub exp act s).kbuf = s.kbuf := rfl
@[simp] theorem raiseError_dbuf (kind : ErrKind) (sub : ErrSub) (exp act : Word) (s : State) : (raiseError kind sub exp act s).dbuf = s.dbuf := rfl
@[simp] theorem raiseError_pos (kind : ErrKind) (sub : ErrSub) (exp act : Word) (s : State) : (raiseError kind sub exp act s).pos = s.pos := rfl
@[simp] theorem raiseError_cnt (kind : ErrKind) (sub : ErrSub) (exp act : Word) (s : State) : (raiseError kind sub exp act s).cnt = s.cnt := rfl
@[simp] theorem raiseError_pol (kind : ErrKind) (sub : ErrSub) (exp act : Word) (s : State) : (raiseError kind sub exp act s).pol = s.pol := rfl
@[simp] theorem raiseError_jint (kind : ErrKind) (sub : ErrSub) (exp act : Word) (s : State) : (raiseError kind sub exp act s).jint = s.jint := rfl
@[simp] theorem raiseError_jdist (kind : ErrKind) (sub : ErrSub) (exp act : Word) (s : State) : (raiseError kind sub exp act s).jdist = s.jdist := rfl
@[simp] theorem raiseError_pass (kind : ErrKind) (sub : ErrSub) (exp act : Word) (s : State) : (raiseError kind sub exp act s).pass = s.pass := rfl
@[simp] theorem raiseError_idx (kind : ErrKind) (sub : ErrSub) (exp act : Word) (s : State) : (raiseError kind sub exp act s).idx = s.idx := rfl
@[simp] theorem raiseError_host (kind : ErrKind) (sub : ErrSub) (exp act : Word) (s : State) : (raiseError kind sub exp act s).host = s.host := rfl

@[simp] theorem complete_cfg (s : State) : (complete s).cfg = s.cfg := rfl
@[simp] theorem complete_kvalid (s : State) : (complete s).kvalid = s.kvalid := rfl
@[simp] theorem complete_ok (s : State) : (complete s).ok = true := rfl
@[simp] theorem complete_err (s : State) : (complete s).err = false := rfl
@[simp] theorem complete_errcode (s : State) : (complete s).errcode = 0 := rfl
@[simp] theorem complete_errsub (s : State) : (complete s).errsub = 0 := rfl
@[simp] theorem complete_errexp (s : State) : (complete s).errexp = 0 := rfl
@[simp] theorem complete_erract (s : State) : (complete s).erract = 0 := rfl
@[simp] theorem complete_kbufLen (s : State) : (complete s).kbufLen = s.kbufLen := rfl
@[simp] theorem complete_dlen (s : State) : (complete s).dlen = s.dlen := rfl
@[simp] theorem complete_klen (s : State) : (complete s).klen = s.klen := rfl
@[simp] theorem complete_jfreq (s : State) : (complete s).jfreq = s.jfreq := rfl
@[simp] theorem complete_jlen (s : State) : (complete s).jlen = s.jlen := rfl
@[simp] theorem complete_kbuf (s : State) : (complete s).kbuf = s.kbuf := rfl
@[simp] theorem complete_dbuf (s : State) : (complete s).dbuf = s.dbuf := rfl
@[simp] theorem complete_pos (s : State) : (complete s).pos = s.pos := rfl
@[simp] theorem complete_cnt (s : State) : (complete s).cnt = s.cnt := rfl
@[simp] theorem complete_pol (s : State) : (complete s).pol = s.pol := rfl
@[simp] theorem complete_jint (s : State) : (complete s).jint = s.jint := rfl
@[simp] theorem complete_jdist (s : State) : (complete s).jdist = s.jdist := rfl
@[simp] theorem complete_pass (s : State) : (complete s).pass = s.pass := rfl
@[simp] theorem complete_idx (s : State) : (complete s).idx = s.idx := rfl
@[simp] theorem complete_host (s : State) : (complete s).host = s.host := rfl

@[simp] theorem startTransform_cfg (s : State) : (startTransform s).cfg = s.cfg := rfl
@[simp] theorem startTransform_kvalid (s : State) : (startTransform s).kvalid = s.kvalid := rfl
@[simp] theorem startTransform_ok (s : State) : (startTransform s).ok = s.ok := rfl
@[simp] theorem startTransform_err (s : State) : (startTransform s).err = s.err := rfl
@[simp] theorem startTransform_errcode (s : State) : (startTransform s).errcode = s.errcode := rfl
@[simp] theorem startTransform_errsub (s : State) : (startTransform s).errsub = s.errsub := rfl
@[simp] theorem startTransform_errexp (s : State) : (startTransform s).errexp = s.errexp := rfl
@[simp] theorem startTransform_erract (s : State) : (startTransform s).erract = s.erract := rfl
@[simp] theorem startTransform_kbufLen (s : State) : (startTransform s).kbufLen = s.kbufLen := rfl
@[simp] theorem startTransform_dlen (s : State) : (startTransform s).dlen = s.dlen := rfl
@[simp] theorem startTransform_klen (s : State) : (startTransform s).klen = s.klen := rfl
@[simp] theorem startTransform_jfreq (s : State) : (startTransform s).jfreq = s.jfreq := rfl
@[simp] theorem startTransform_jlen (s : State) : (startTransform s).jlen = s.jlen := rfl
@[simp] theorem startTransform_kbuf (s : State) : (startTransform s).kbuf = s.kbuf := rfl
@[simp] theorem startTransform_dbuf (s : State) : (startTransform s).dbuf = s.dbuf := rfl
@[simp] theorem startTransform_pos (s : State) : (startTransform s).pos = 0 := rfl
@[simp] theorem startTransform_cnt (s : State) : (startTransform s).cnt = jumpInterval s.cfg.jiEval (dataLen s) s.jfreq.toNat := rfl
@[simp] theorem startTransform_pol (s : State) : (startTransform s).pol = false := rfl
@[simp] theorem startTransform_jint (s : State) : (startTransform s).jint = jumpInterval s.cfg.jiEval (dataLen s) s.jfreq.toNat := rfl
@[simp] theorem startTransform_jdist (s : State) : (startTransform s).jdist = jumpDistance s.jlen.toNat (keyLen s) := rfl
@[simp] theorem startTransform_pass (s : State) : (startTransform s).pass = 0 := rfl
@[simp] theorem startTransform_idx (s : State) : (startTransform s).idx = 0 := rfl
@[simp] theorem startTransform_host (s : State) : (startTransform s).host = s.host := rfl

@[simp] theorem answer_cfg (a : HostAnswer) (s : State) : (answer a s).cfg = s.cfg := rfl
@[simp] theorem answer_kvalid (a : HostAnswer) (s : State) : (answer a s).kvalid = s.kvalid := rfl
@[simp] theorem answer_ok (a : HostAnswer) (s : State) : (answer a s).ok = s.ok := rfl
@[simp] theorem answer_err (a : HostAnswer) (s : State) : (answer a s).err = s.err := rfl
@[simp] theorem answer_errcode (a : HostAnswer) (s : State) : (answer a s).errcode = s.errcode := rfl
@[simp] theorem answer_errsub (a : HostAnswer) (s : State) : (answer a s).errsub = s.errsub := rfl
@[simp] theorem answer_errexp (a : HostAnswer) (s : State) : (answer a s).errexp = s.errexp := rfl
@[simp] theorem answer_erract (a : HostAnswer) (s : State) : (answer a s).erract = s.erract := rfl
@[simp] theorem answer_kbufLen (a : HostAnswer) (s : State) : (answer a s).kbufLen = s.kbufLen := rfl
@[simp] theorem answer_dlen (a : HostAnswer) (s : State) : (answer a s).dlen = s.dlen := rfl
@[simp] theorem answer_klen (a : HostAnswer) (s : State) : (answer a s).klen = s.klen := rfl
@[simp] theorem answer_jfreq (a : HostAnswer) (s : State) : (answer a s).jfreq = s.jfreq := rfl
@[simp] theorem answer_jlen (a : HostAnswer) (s : State) : (answer a s).jlen = s.jlen := rfl
@[simp] theorem answer_kbuf (a : HostAnswer) (s : State) : (answer a s).kbuf = s.kbuf := rfl
@[simp] theorem answer_dbuf (a : HostAnswer) (s : State) : (answer a s).dbuf = s.dbuf := rfl
@[simp] theorem answer_pos (a : HostAnswer) (s : State) : (answer a s).pos = s.pos := rfl
@[simp] theorem answer_cnt (a : HostAnswer) (s : State) : (answer a s).cnt = s.cnt := rfl
@[simp] theorem answer_pol (a : HostAnswer) (s : State) : (answer a s).pol = s.pol := rfl
@[simp] theorem answer_jint (a : HostAnswer) (s : State) : (answer a s).jint = s.jint := rfl
@[simp] theorem answer_jdist (a : HostAnswer) (s : State) : (answer a s).jdist = s.jdist := rfl
@[simp] theorem answer_pass (a : HostAnswer) (s : State) : (answer a s).pass = s.pass := rfl
@[simp] theorem answer_idx (a : HostAnswer) (s : State) : (answer a s).idx = s.idx := rfl
@[simp] theorem answer_host (a : HostAnswer) (s : State) : (answer a s).host = { s.host with answers := a :: s.host.answers } := rfl

@[simp] theorem withPending_cfg (ops : List HostOp) (s : State) : (withPending ops s).cfg = s.cfg := rfl
@[simp] theorem withPending_kvalid (ops : List HostOp) (s : State) : (withPending ops s).kvalid = s.kvalid := rfl
@[simp] theorem withPending_ok (ops : List HostOp) (s : State) : (withPending ops s).ok = s.ok := rfl
@[simp] theorem withPending_err (ops : List HostOp) (s : State) : (withPending ops s).err = s.err := rfl
@[simp] theorem withPending_errcode (ops : List HostOp) (s : State) : (withPending ops s).errcode = s.errcode := rfl
@[simp] theorem withPending_errsub (ops : List HostOp) (s : State) : (withPending ops s).errsub = s.errsub := rfl
@[simp] theorem withPending_errexp (ops : List HostOp) (s : State) : (withPending ops s).errexp = s.errexp := rfl
@[simp] theorem withPending_erract (ops : List HostOp) (s : State) : (withPending ops s).erract = s.erract := rfl
@[simp] theorem withPending_kbufLen (ops : List HostOp) (s : State) : (withPending ops s).kbufLen = s.kbufLen := rfl
@[simp] theorem withPending_dlen (ops : List HostOp) (s : State) : (withPending ops s).dlen = s.dlen := rfl
@[simp] theorem withPending_klen (ops : List HostOp) (s : State) : (withPending ops s).klen = s.klen := rfl
@[simp] theorem withPending_jfreq (ops : List HostOp) (s : State) : (withPending ops s).jfreq = s.jfreq := rfl
@[simp] theorem withPending_jlen (ops : List HostOp) (s : State) : (withPending ops s).jlen = s.jlen := rfl
@[simp] theorem withPending_kbuf (ops : List HostOp) (s : State) : (withPending ops s).kbuf = s.kbuf := rfl
@[simp] theorem withPending_dbuf (ops : List HostOp) (s : State) : (withPending ops s).dbuf = s.dbuf := rfl
@[simp] theorem withPending_pos (ops : List HostOp) (s : State) : (withPending ops s).pos = s.pos := rfl
@[simp] theorem withPending_cnt (ops : List HostOp) (s : State) : (withPending ops s).cnt = s.cnt := rfl
@[simp] theorem withPending_pol (ops : List HostOp) (s : State) : (withPending ops s).pol = s.pol := rfl
@[simp] theorem withPending_jint (ops : List HostOp) (s : State) : (withPending ops s).jint = s.jint := rfl
@[simp] theorem withPending_jdist (ops : List HostOp) (s : State) : (withPending ops s).jdist = s.jdist := rfl
@[simp] theorem withPending_pass (ops : List HostOp) (s : State) : (withPending ops s).pass = s.pass := rfl
@[simp] theorem withPending_idx (ops : List HostOp) (s : State) : (withPending ops s).idx = s.idx := rfl
@[simp] theorem withPending_host (ops : List HostOp) (s : State) : (withPending ops s).host = { s.host with pending := ops } := rfl

@[simp] theorem putOp_cfg (op : HostOp) (s : State) : (putOp op s).cfg = s.cfg := rfl
@[simp] theorem putOp_kvalid (op : HostOp) (s : State) : (putOp op s).kvalid = s.kvalid := rfl
@[simp] theorem putOp_ok (op : HostOp) (s : State) : (putOp op s).ok = s.ok := rfl
@[simp] theorem putOp_err (op : HostOp) (s : State) : (putOp op s).err = s.err := rfl
@[simp] theorem putOp_errcode (op : HostOp) (s : State) : (putOp op s).errcode = s.errcode := rfl
@[simp] theorem putOp_errsub (op : HostOp) (s : State) : (putOp op s).errsub = s.errsub := rfl
@[simp] theorem putOp_errexp (op : HostOp) (s : State) : (putOp op s).errexp = s.errexp := rfl
@[simp] theorem putOp_erract (op : HostOp) (s : State) : (putOp op s).erract = s.erract := rfl
@[simp] theorem putOp_kbufLen (op : HostOp) (s : State) : (putOp op s).kbufLen = s.kbufLen := rfl
@[simp] theorem putOp_dlen (op : HostOp) (s : State) : (putOp op s).dlen = s.dlen := rfl
@[simp] theorem putOp_klen (op : HostOp) (s : State) : (putOp op s).klen = s.klen := rfl
@[simp] theorem putOp_jfreq (op : HostOp) (s : State) : (putOp op s).jfreq = s.jfreq := rfl
@[simp] theorem putOp_jlen (op : HostOp) (s : State) : (putOp op s).jlen = s.jlen := rfl
@[simp] theorem putOp_kbuf (op : HostOp) (s : State) : (putOp op s).kbuf = s.kbuf := rfl
@[simp] theorem putOp_dbuf (op : HostOp) (s : State) : (putOp op s).dbuf = s.dbuf := rfl
@[simp] theorem putOp_pos (op : HostOp) (s : State) : (putOp op s).pos = s.pos := rfl
@[simp] theorem putOp_cnt (op : HostOp) (s : State) : (putOp op s).cnt = s.cnt := rfl
@[simp] theorem putOp_pol (op : HostOp) (s : State) : (putOp op s).pol = s.pol := rfl
@[simp] theorem putOp_jint (op : HostOp) (s : State) : (putOp op s).jint = s.jint := rfl
@[simp] theorem putOp_jdist (op : HostOp) (s : State) : (putOp op s).jdist = s.jdist := rfl
@[simp] theorem putOp_pass (op : HostOp) (s : State) : (putOp op s).pass = s.pass := rfl
@[simp] theorem putOp_idx (op : HostOp) (s : State) : (putOp op s).idx = s.idx := rfl
@[simp] theorem putOp_host (op : HostOp) (s : State) : (putOp op s).host = { s.host with pending := op :: s.host.pending } := rfl

end Sys2Proof.Machine
end

