-- ==== Sys2Proof/Laws/Ops.lean ====
section
/-!
SUPPORT. One lemma per shared operation that says once everything it can do: if it answers a next state, then one of
these cases holds.
-/

namespace Sys2Proof.Machine

/-- A command's read of a cell goes on only when the cell holds a value. -/
theorem withCell_next {sp : Space} {a : Nat} {s t : State} {k : Byte → Result}
    (h : withCell sp a s k = .next t) : ∃ v, Memory.read (bufferOf sp s) a = some v ∧ k v = .next t := by
  unfold withCell at h
  split at h
  · exact ⟨_, ‹_›, h⟩
  · cases h

/-- A command's read of a cell that holds a value. -/
theorem withCell_some {sp : Space} {a : Nat} {s : State} {v : Byte} (k : Byte → Result)
    (h : Memory.read (bufferOf sp s) a = some v) : withCell sp a s k = k v := by
  simp [withCell, h]

/-- A command's read of a cell that holds no value faults. -/
theorem withCell_none {sp : Space} {a : Nat} {s : State} (k : Byte → Result)
    (h : Memory.read (bufferOf sp s) a = none) : withCell sp a s k = .fault (.noValue sp a) := by
  simp [withCell, h]

/-- A command's read of a cell is refused only where what follows is. -/
theorem withCell_refused {sp : Space} {a : Nat} {s : State} {k : Byte → Result} {r : Refusal}
    (h : withCell sp a s k = .refused r) : ∃ v, k v = .refused r := by
  unfold withCell at h
  split at h
  · exact ⟨_, h⟩
  · cases h

/-- A byte step reads the key byte under the cursor and the data byte at IDX, and applies them. -/
theorem byteStep_next {dir : Direction} {s t : State} (h : byteStep dir s = .next t) :
    ∃ k d, Memory.read s.kbuf (keyByteAddr s) = some k ∧ Memory.read s.dbuf (dataAddr s) = some d ∧
      t = applyByte dir k d s := by
  obtain ⟨k, hk, h⟩ := withCell_next h
  obtain ⟨d, hd, h⟩ := withCell_next h
  cases h
  exact ⟨k, d, hk, hd, rfl⟩

/-- A byte step whose two cells hold values goes on. -/
theorem byteStep_some {dir : Direction} {s : State} {k d : Byte}
    (hk : Memory.read s.kbuf (keyByteAddr s) = some k) (hd : Memory.read s.dbuf (dataAddr s) = some d) :
    byteStep dir s = .next (applyByte dir k d s) := by
  simp [byteStep, withCell, bufferOf, hk, hd]

/-- What a byte step writes and what it leaves alone. -/
theorem applyByte_fields (dir : Direction) (k d : Byte) (s : State) :
    (applyByte dir k d s).cfg = s.cfg ∧ (applyByte dir k d s).kvalid = s.kvalid ∧
    (applyByte dir k d s).kbufLen = s.kbufLen ∧ (applyByte dir k d s).dlen = s.dlen ∧
    (applyByte dir k d s).klen = s.klen ∧ (applyByte dir k d s).jfreq = s.jfreq ∧
    (applyByte dir k d s).jlen = s.jlen ∧ (applyByte dir k d s).kbuf = s.kbuf ∧
    (applyByte dir k d s).jint = s.jint ∧ (applyByte dir k d s).jdist = s.jdist ∧
    (applyByte dir k d s).pass = s.pass ∧ (applyByte dir k d s).idx = s.idx ∧
    (applyByte dir k d s).host = s.host ∧
    (applyByte dir k d s).dbuf = Memory.write s.dbuf s.idx (mixByte dir s.pol d k) := by
  unfold applyByte wrapCursor jumpIfDue
  split <;> split <;> simp [dataAddr]

/-- The cursor, the counter and the polarity after a byte step (spec/42_transform.md R103, R116). -/
theorem applyByte_schedule (dir : Direction) (k d : Byte) (s : State) :
    (applyByte dir k d s).pos = (s.pos + 1 + if s.cnt - 1 = 0 then s.jdist else 0) % s.klen.toNat ∧
    (applyByte dir k d s).cnt = (if s.cnt - 1 = 0 then s.jint else s.cnt - 1) ∧
    (applyByte dir k d s).pol = (if s.cnt - 1 = 0 then !s.pol else s.pol) := by
  unfold applyByte wrapCursor jumpIfDue
  by_cases hc : s.cnt - 1 = 0 <;> simp only [hc, if_true, if_false, keyLen] <;> split <;>
    simp_all [Nat.mod_eq_of_lt]

/-- PASS and IDX advance and nothing else does. -/
theorem advance_fields (s : State) :
    (advance s).cfg = s.cfg ∧ (advance s).kvalid = s.kvalid ∧ (advance s).ok = s.ok ∧ (advance s).err = s.err ∧
    (advance s).errcode = s.errcode ∧ (advance s).errsub = s.errsub ∧ (advance s).errexp = s.errexp ∧
    (advance s).erract = s.erract ∧ (advance s).kbufLen = s.kbufLen ∧ (advance s).dlen = s.dlen ∧
    (advance s).klen = s.klen ∧ (advance s).jfreq = s.jfreq ∧ (advance s).jlen = s.jlen ∧
    (advance s).kbuf = s.kbuf ∧ (advance s).dbuf = s.dbuf ∧ (advance s).pos = s.pos ∧ (advance s).cnt = s.cnt ∧
    (advance s).pol = s.pol ∧ (advance s).jint = s.jint ∧ (advance s).jdist = s.jdist ∧
    (advance s).host = s.host := by
  unfold advance
  split
  · simp
  · split <;> simp

/-- The loop, one byte step at a time from its beginning. -/
theorem runByteSteps_succ_next {dir : Direction} {n : Nat} {s t : State}
    (h : runByteSteps dir (n + 1) s = .next t) :
    ∃ u, byteStep dir s = .next u ∧ runByteSteps dir n (advance u) = .next t := by
  simp only [runByteSteps] at h
  split at h
  · exact ⟨_, ‹_›, h⟩
  · cases h
  · cases h

/-- A byte step is never refused. -/
theorem byteStep_not_refused (dir : Direction) (s : State) (r : Refusal) : byteStep dir s ≠ .refused r := by
  intro h
  obtain ⟨_, h⟩ := withCell_refused h
  obtain ⟨_, h⟩ := withCell_refused h
  cases h

/-- The byte steps are never refused. -/
theorem runByteSteps_not_refused (dir : Direction) (n : Nat) (s : State) (r : Refusal) :
    runByteSteps dir n s ≠ .refused r := by
  induction n generalizing s with
  | zero => simp [runByteSteps]
  | succ n ih =>
    simp only [runByteSteps]
    split
    · exact ih _
    · simp
    · rename_i h
      exact absurd h (byteStep_not_refused dir s _)

/-- Everything a transform can do when it goes on: NOKEY, DLEN_RANGE, or all its byte steps. -/
theorem transform_next {dir : Direction} {s t : State} (h : transform dir s = .next t) :
    (s.kvalid = false ∧ t = raiseError .invalidFormat .nokey 0 0 s) ∨
    (s.kvalid = true ∧ s.cfg.dmax.toNat < s.dlen.toNat ∧
      t = raiseError .invalidArgument .dlenRange s.cfg.dmax s.dlen s) ∨
    (s.kvalid = true ∧ s.dlen.toNat ≤ s.cfg.dmax.toNat ∧
      ∃ u, runByteSteps dir (10 * s.dlen.toNat) (startTransform s) = .next u ∧ t = complete u) := by
  unfold transform at h
  split at h
  · rename_i hk
    cases h
    exact .inl ⟨hk, rfl⟩
  · rename_i hk
    have hk' : s.kvalid = true := by simpa using hk
    split at h
    · rename_i hd
      cases h
      exact .inr (.inl ⟨hk', hd, rfl⟩)
    · rename_i hd
      unfold finishTransform at h
      split at h
      · rename_i hr
        cases h
        exact .inr (.inr ⟨hk', Nat.le_of_not_lt hd, _, hr, rfl⟩)
      · cases h
      · cases h

/-- A transform is never refused. -/
theorem transform_not_refused (dir : Direction) (s : State) (r : Refusal) : transform dir s ≠ .refused r := by
  unfold transform
  split
  · simp
  · split
    · simp
    · unfold finishTransform
      split
      · simp
      · simp
      · rename_i h
        exact absurd h (runByteSteps_not_refused dir _ _ _)

/-- Everything KDEC can do when it goes on: one of its five errors with the key withdrawn, or the decoded key. -/
theorem execKdec_next {s t : State} (h : execKdec s = .next t) :
    (∃ sub exp act, t = raiseError .invalidFormat sub exp act (withdrawKey s)) ∨
    (∃ hi lo jf b2 b1 b0, 8 ≤ s.kbufLen.toNat ∧ Memory.read s.kbuf 0 = some 0xFF ∧
      Memory.read s.kbuf 1 = some hi ∧ Memory.read s.kbuf 2 = some lo ∧
      s.kbufLen.toNat = 8 + (be16 hi lo).toNat ∧ 4 ≤ (be16 hi lo).toNat ∧
      Memory.read s.kbuf (7 + (be16 hi lo).toNat) = some 0x00 ∧
      Memory.read s.kbuf 3 = some jf ∧ Memory.read s.kbuf 4 = some b2 ∧ Memory.read s.kbuf 5 = some b1 ∧
      Memory.read s.kbuf 6 = some b0 ∧
      t = complete { s with klen := be16 hi lo, jfreq := jf, jlen := be24 b2 b1 b0, kvalid := true }) := by
  unfold execKdec failKdec at h
  dsimp only at h
  split at h
  · cases h; exact .inl ⟨_, _, _, rfl⟩
  rename_i hn
  obtain ⟨hd, hr0, h⟩ := withCell_next h
  split at h
  · cases h; exact .inl ⟨_, _, _, rfl⟩
  rename_i hh
  obtain ⟨hi, hr1, h⟩ := withCell_next h
  obtain ⟨lo, hr2, h⟩ := withCell_next h
  split at h
  · cases h; exact .inl ⟨_, _, _, rfl⟩
  rename_i hlen
  split at h
  · cases h; exact .inl ⟨_, _, _, rfl⟩
  rename_i hmin
  obtain ⟨f, hrf, h⟩ := withCell_next h
  split at h
  · cases h; exact .inl ⟨_, _, _, rfl⟩
  rename_i hf
  obtain ⟨jf, hr3, h⟩ := withCell_next h
  obtain ⟨b2, hr4, h⟩ := withCell_next h
  obtain ⟨b1, hr5, h⟩ := withCell_next h
  obtain ⟨b0, hr6, h⟩ := withCell_next h
  cases h
  refine .inr ⟨hi, lo, jf, b2, b1, b0, ?_⟩
  simp only [Config.keyOverhead, Config.klenMin, Config.header, Config.finalizer, not_lt, ne_eq,
    Decidable.not_not] at hn hh hlen hmin hf
  subst hh hf
  exact ⟨hn, hr0, hr1, hr2, hlen, hmin, hrf, hr3, hr4, hr5, hr6, rfl⟩

/-- KDEC is never refused. -/
theorem execKdec_not_refused (s : State) (r : Refusal) : execKdec s ≠ .refused r := by
  intro h
  unfold execKdec failKdec at h
  dsimp only at h
  split at h
  · cases h
  obtain ⟨_, h⟩ := withCell_refused h
  split at h
  · cases h
  obtain ⟨_, h⟩ := withCell_refused h
  obtain ⟨_, h⟩ := withCell_refused h
  split at h
  · cases h
  split at h
  · cases h
  obtain ⟨_, h⟩ := withCell_refused h
  split at h
  · cases h
  obtain ⟨_, h⟩ := withCell_refused h
  obtain ⟨_, h⟩ := withCell_refused h
  obtain ⟨_, h⟩ := withCell_refused h
  obtain ⟨_, h⟩ := withCell_refused h
  cases h

/-- The big-endian fields lose no bit (spec/20_memory.md R43). -/
@[simp] theorem be16_toNat (hi lo : Byte) : (be16 hi lo).toNat = hi.toNat * 256 + lo.toNat := by
  simp only [be16, BitVec.toNat_ofNat]
  have := hi.isLt
  have := lo.isLt
  omega

@[simp] theorem be24_toNat (b2 b1 b0 : Byte) :
    (be24 b2 b1 b0).toNat = b2.toNat * 65536 + b1.toNat * 256 + b0.toNat := by
  simp only [be24, BitVec.toNat_ofNat]
  have := b2.isLt
  have := b1.isLt
  have := b0.isLt
  omega

end Sys2Proof.Machine
end

