-- ==== Sys2Proof/Laws/Host.lean ====
section
/-!
SUPPORT. What a host operation and a step can do, said once.
-/

namespace Sys2Proof.Machine

@[simp] theorem regAt_regOffset (r : RegName) : regAt (regOffset r) = some r := by cases r <;> rfl

/-- The register map lists each register once. -/
theorem regOffset_of_regAt {off : Nat} {r : RegName} (h : regAt off = some r) : off = regOffset r := by
  simp only [regAt, registerMap, List.lookup] at h
  repeat' split at h
  all_goals first
    | (cases h; simp_all [regOffset])
    | cases h

/-- A CMD write runs the command it encodes or records BADCMD. -/
theorem issueCommand_cases (w : Word) (s : State) :
    (∃ i, decode w = .ok i ∧ issueCommand w s = exec i s) ∨
    (∃ e, decode w = .error e ∧ issueCommand w s = .next (illegalCommand w s)) := by
  unfold issueCommand
  split
  · exact .inl ⟨_, ‹_›, rfl⟩
  · exact .inr ⟨_, ‹_›, rfl⟩

/-- No command is refused. -/
theorem issueCommand_not_refused (w : Word) (s : State) (r : Refusal) : issueCommand w s ≠ .refused r := by
  rcases issueCommand_cases w s with ⟨i, _, h⟩ | ⟨e, _, h⟩ <;> rw [h]
  · cases i
    · exact execKdec_not_refused s r
    · exact transform_not_refused .encrypt s r
    · exact transform_not_refused .decrypt s r
  · simp

/-- Everything a host operation can do when it goes on. -/
theorem hostStep_next {op : HostOp} {s t : State} (h : hostStep op s = .next t) :
    (∃ w, op = .writeReg 0 w ∧ issueCommand w s = .next t) ∨
    (∃ v, op = .writeReg 0x18 v ∧ t = withdrawKey { s with kbufLen := v }) ∨
    (∃ v, op = .writeReg 0x1C v ∧ t = { s with dlen := v }) ∨
    (∃ off v r, op = .writeReg off v ∧ regAt off = some r ∧ r ≠ .cmd ∧ r ≠ .kbufLen ∧ r ≠ .dlen ∧ t = s) ∨
    (∃ off r, op = .readReg off ∧ regAt off = some r ∧ t = answer (.reg (readRegister r s)) s) ∨
    (∃ sp a v, op = .writeByte sp a v ∧ a < capacityOf sp s ∧ t = storeCell sp a v s) ∨
    (∃ sp a, op = .readByte sp a ∧ a < capacityOf sp s ∧ t = loadCell sp a s) ∨
    (op = .reset ∧ t = resetBlock s) := by
  cases op with
  | writeReg off v =>
    simp only [hostStep] at h
    split at h
    · rename_i r hr
      have hoff := regOffset_of_regAt hr
      cases r with
      | cmd => exact .inl ⟨v, by rw [hoff]; rfl, h⟩
      | kbufLen => cases h; exact .inr (.inl ⟨v, by rw [hoff]; rfl, rfl⟩)
      | dlen => cases h; exact .inr (.inr (.inl ⟨v, by rw [hoff]; rfl, rfl⟩))
      | status => cases h; exact .inr (.inr (.inr (.inl ⟨off, v, _, rfl, hr, by simp, by simp, by simp, rfl⟩)))
      | errcode => cases h; exact .inr (.inr (.inr (.inl ⟨off, v, _, rfl, hr, by simp, by simp, by simp, rfl⟩)))
      | errsub => cases h; exact .inr (.inr (.inr (.inl ⟨off, v, _, rfl, hr, by simp, by simp, by simp, rfl⟩)))
      | errexp => cases h; exact .inr (.inr (.inr (.inl ⟨off, v, _, rfl, hr, by simp, by simp, by simp, rfl⟩)))
      | erract => cases h; exact .inr (.inr (.inr (.inl ⟨off, v, _, rfl, hr, by simp, by simp, by simp, rfl⟩)))
      | klen => cases h; exact .inr (.inr (.inr (.inl ⟨off, v, _, rfl, hr, by simp, by simp, by simp, rfl⟩)))
      | jfreq => cases h; exact .inr (.inr (.inr (.inl ⟨off, v, _, rfl, hr, by simp, by simp, by simp, rfl⟩)))
      | jlen => cases h; exact .inr (.inr (.inr (.inl ⟨off, v, _, rfl, hr, by simp, by simp, by simp, rfl⟩)))
    · cases h
  | readReg off =>
    simp only [hostStep] at h
    split at h
    · cases h
      exact .inr (.inr (.inr (.inr (.inl ⟨off, _, rfl, ‹_›, rfl⟩))))
    · cases h
  | writeByte sp a v =>
    simp only [hostStep] at h
    split at h
    · cases h
      exact .inr (.inr (.inr (.inr (.inr (.inl ⟨sp, a, v, rfl, ‹_›, rfl⟩)))))
    · cases h
  | readByte sp a =>
    simp only [hostStep] at h
    split at h
    · cases h
      exact .inr (.inr (.inr (.inr (.inr (.inr (.inl ⟨sp, a, rfl, ‹_›, rfl⟩))))))
    · cases h
  | reset =>
    cases h
    exact .inr (.inr (.inr (.inr (.inr (.inr (.inr ⟨rfl, rfl⟩))))))

/-- A read of a cell changes the host's side only. -/
theorem loadCell_fields (sp : Space) (a : Nat) (s : State) :
    { loadCell sp a s with host := s.host } = s := by
  unfold loadCell
  split <;> rfl

@[simp] theorem takeOp_nil {s : State} (h : s.host.pending = []) : takeOp s = none := by
  simp [takeOp, h]

@[simp] theorem takeOp_cons {s : State} {op : HostOp} {rest : List HostOp} (h : s.host.pending = op :: rest) :
    takeOp s = some (op, withPending rest s) := by
  simp [takeOp, h, withPending]

/-- A step takes the host's next operation, or changes nothing when there is none. -/
theorem step_cases (s : State) :
    (s.host.pending = [] ∧ step s = .next s) ∨
    (∃ op rest, s.host.pending = op :: rest ∧ step s = hostStep op (withPending rest s)) := by
  cases h : s.host.pending with
  | nil => exact .inl ⟨rfl, by simp [step, takeOp_nil h]⟩
  | cons op rest => exact .inr ⟨op, rest, rfl, by simp [step, takeOp_cons h]⟩

end Sys2Proof.Machine
end

