-- ==== Sys2Proof/Laws/PerInstr.lean ====
section
/-!
SUPPORT. The per-instruction family WordLayout: every command is well formed, and its word has the field `zero`
clear and a non-zero `op` (spec/30_encoding.md R64).
-/

namespace Sys2Proof.Laws.WordLayout

def Statement (i : Instr) : Prop :=
  i.wellFormed = true ∧ zeroField (encode i) = 0 ∧ opField (encode i) ≠ 0

theorem kdec : Statement .kdec := by unfold Statement; decide
theorem enc : Statement .enc := by unfold Statement; decide
theorem dec : Statement .dec := by unfold Statement; decide

end Sys2Proof.Laws.WordLayout
end

