-- ==== Sys2Proof/Tests/Slice0.lean ====
section
/-!
SUPPORT. Tests: expected values come from spec/95_test_vectors.md and from the worked examples of the rules, named at
each test; then one witness for the hypotheses of every statement that has any.
-/

namespace Sys2Proof.Tests

open Sys2Proof.Machine

/-! ## States the tests share -/

/-- A buffer that holds these bytes from index 0 on. -/
def cells (bytes : List Byte) : Memory := bytes.zipIdx.map fun p => (p.2, p.1)

/-- An instance with DMAX = 1024, the candidate `key` in KBUF and `data` in DBUF, no command issued yet. -/
def loaded (key data : List Byte) : State :=
  { State.afterReset ⟨1024, .exact⟩ ⟨[], [], 0⟩ with
    kbuf := cells key, kbufLen := BitVec.ofNat 32 key.length
    dbuf := cells data, dlen := BitVec.ofNat 32 data.length }

/-- Key K2 of spec/95_test_vectors.md. -/
def keyK2 : List Byte := [0xFF, 0x00, 0x04, 0xFF, 0x00, 0x00, 0x00, 0x01, 0x02, 0x03, 0x04, 0x00]

/-- The data of vector T2 of spec/95_test_vectors.md. -/
def dataT2 : List Byte := [0x54, 0x45, 0x53, 0x54]

/-- K2 decoded, with data loaded. -/
def decoded (data : List Byte) : State :=
  { loaded keyK2 data with kvalid := true, klen := 4, jfreq := 0xFF, jlen := 0, ok := true }

/-- One field of a next state. -/
def after {α : Type} (r : Result) (f : State → α) : Option α :=
  match r with
  | .next t => some (f t)
  | .fault _ => none
  | .refused _ => none

/-- The error record as the host reads it: STATUS, ERRCODE, ERRSUB, ERREXP, ERRACT. -/
def record (s : State) : List Word :=
  [readRegister .status s, readRegister .errcode s, readRegister .errsub s, readRegister .errexp s,
   readRegister .erract s]

/-! ## Command words (spec/30_encoding.md R64, R65) -/

theorem test_decode_kdec_word : decode 0b00000000000000000000000000000001#32 = .ok .kdec := rfl
theorem test_decode_enc_word : decode 0b00000000000000000000000000000010#32 = .ok .enc := rfl
theorem test_decode_dec_word : decode 0b00000000000000000000000000000011#32 = .ok .dec := rfl
theorem test_decode_zero_word_illegal : decode 0x00000000#32 = .error .opZero := rfl
theorem test_decode_word_0x102_illegal : decode 0x00000102#32 = .error .zeroFieldSet := rfl
theorem test_decodeTableWord : [1, 2, 3, 0, 2 ^ 31].map (decodeTableWord 32) =
    [some .kdec, some .enc, some .dec, none, none] := by decide

/-! ## Well-formedness: an ill-formed term for each check -/

theorem test_illformed_write_offset : HostOp.wellFormed 1024 (.writeReg 0x2C 0) = false := by decide
theorem test_illformed_read_offset : HostOp.wellFormed 1024 (.readReg 0x02) = false := by decide
theorem test_illformed_kbuf_write : HostOp.wellFormed 1024 (.writeByte .kbuf 65543 0) = false := by decide
theorem test_illformed_kbuf_read : HostOp.wellFormed 1024 (.readByte .kbuf 65543) = false := by decide
theorem test_illformed_dbuf_write : HostOp.wellFormed 1024 (.writeByte .dbuf 1024 0) = false := by decide
theorem test_illformed_dbuf_read : HostOp.wellFormed 1024 (.readByte .dbuf 1024) = false := by decide
theorem test_illformed_buffer_order : Memory.wf 8 [(3, 0), (2, 0)] = false := by decide
theorem test_illformed_buffer_capacity : Memory.wf 8 [(8, 0)] = false := by decide

/-! ## KDEC (spec/95_test_vectors.md 2.1) -/

/-- Vector K1: the fields, big-endian. -/
theorem test_kdec_K1_fields :
    after (exec .kdec (loaded [0xFF, 0x00, 0x04, 0x41, 0x41, 0x41, 0x41, 0x41, 0x41, 0x41, 0x41, 0x00] []))
      (fun t => (record t, t.klen, t.jfreq, t.jlen)) = some ([3, 0, 0, 0, 0], 4, 0x41, 0x414141) := by decide

/-- Vector K8: the declared length is 5, the candidate holds 4. -/
theorem test_kdec_K8_length :
    after (exec .kdec (loaded [0xFF, 0x00, 0x05, 0x01, 0x00, 0x00, 0x00, 0x01, 0x02, 0x03, 0x04, 0x00] []))
      record = some [4, 2, 3, 13, 12] := by decide

/-! ## ENC and DEC (spec/95_test_vectors.md 2.3) -/

/-- Vector T2. -/
theorem test_enc_T2 : after (exec .enc (decoded dataT2)) (·.dbuf) = some (cells [0x5E, 0x59, 0x35, 0x2C]) := by
  decide

/-- Vector T6: the passes do not line up with the schedule. -/
theorem test_enc_T6 : after (exec .enc (decoded [0x00, 0x80, 0xFF])) (·.dbuf) = some (cells [0xF5, 0x7B, 0xF6]) := by
  decide

/-- Vector T11: DEC on plaintext. -/
theorem test_dec_T11 : after (exec .dec (decoded dataT2)) (·.dbuf) = some (cells [0x4A, 0x31, 0x71, 0x7C]) := by
  decide

/-- Program P4, step 4: a length beyond DMAX. -/
theorem test_dec_P4_dlen_range :
    after (exec .dec { decoded dataT2 with dlen := 1025 }) record = some [5, 1, 8, 1024, 1025] := by decide

/-! ## The jump schedule (spec/95_test_vectors.md 2.2, spec/41_jump_schedule.md R92) -/

/-- Vectors J5, J6, J7, J14, J16, J17. -/
theorem test_jump_interval_exact :
    [jumpInterval .exact 48 255, jumpInterval .exact 48 254, jumpInterval .exact 160 255,
     jumpInterval .exact 816 155, jumpInterval .exact 7344 65, jumpInterval .exact 4294967295 255] =
    [3, 2, 10, 31, 117, 268435455] := by decide

/-- Vectors J14, J16 and the points (147, 85), (187, 165), (195, 153) of R92. -/
theorem test_jump_interval_binary64 :
    [jumpInterval .binary64 816 155, jumpInterval .binary64 7344 65, jumpInterval .binary64 1360 147,
     jumpInterval .binary64 2640 187, jumpInterval .binary64 2448 195, jumpInterval .binary64 160 255] =
    [30, 116, 48, 120, 116, 10] := by decide

/-- Vectors JD1, JD4, JD6, JD7, JD8. -/
theorem test_jump_distance :
    [jumpDistance 0 4, jumpDistance 7 5, jumpDistance 4276545 4, jumpDistance 16777215 4,
     jumpDistance 16777215 65535] = [4, 6, 1069140, 4194307, 65791] := by decide

/-! ## Keys and host operations -/

/-- The worked example of spec/30_encoding.md R71. -/
theorem test_key_encode : keyEncode 0x41 0x414141 [0x41, 0x41, 0x41, 0x41] =
    [0xFF, 0x00, 0x04, 0x41, 0x41, 0x41, 0x41, 0x41, 0x41, 0x41, 0x41, 0x00] := by decide

/-- Program P2, steps 11 and 12: a write of the value the cell holds withdraws the key. -/
theorem test_kbuf_write_withdraws_key :
    after (hostStep (.writeByte .kbuf 7 0x01) (decoded dataT2))
      (fun t => [readRegister .status t, readRegister .klen t]) = some [2, 0] := by decide

/-- Program P2, steps 17 and 18: an illegal word keeps the key. -/
theorem test_illegal_word_record :
    after (step ((decoded dataT2).withFetchWord 32 0)) record = some [5, 1, 7, 0, 0] := by decide

/-- The command at hand after reset runs: ENC without a key (program P2, steps 3 and 4). -/
theorem test_first_step_after_reset :
    after (step (State.reset.withFetchWord 32 2)) record = some [4, 2, 6, 0, 0] := by decide

/-- Source example S9 on program P1: load, decode, encrypt, and read back. -/
theorem test_program_P1_readback :
    after (runOps (loadK keyK2 ++ [issueOp .kdec] ++ loadD dataT2 ++ [issueOp .enc] ++ readD 4) (loaded [] []))
      (·.host.answers) = some [.byte 0x2C, .byte 0x35, .byte 0x59, .byte 0x5E] := by decide

/-- A read of a cell without a value goes on (spec/93_implementation_defined.md U2). -/
theorem test_read_of_unwritten_cell :
    after (hostStep (.readByte .dbuf 9) (decoded dataT2)) (·.host.freeReads) = some 1 := by decide

/-- A transform that meets a cell without a value faults (spec/93_implementation_defined.md U1). -/
theorem test_unwritten_data_faults :
    exec .enc { decoded dataT2 with dlen := 5 } = .fault (.noValue .dbuf 4) := rfl

/-! ## Host procedures (outside the block) -/

/-- ENC's procedure without a key: the diagnostic is NOKEY (spec/42_transform.md R101). -/
theorem test_transform_reports_nokey :
    (match transformOnBlock .encrypt dataT2 (loaded [] []) with
      | .failed r _ => some r
      | _ => none) = some { kind := .invalidFormat, cause := .block 6 0 0 } := by decide

/-- Vector K8's diagnostic: expected length 13, actual 12. -/
theorem test_decode_key_reports_K8 :
    (match decodeKey [0xFF, 0x00, 0x05, 0x01, 0x00, 0x00, 0x00, 0x01, 0x02, 0x03, 0x04, 0x00] (loaded [] []) with
      | .failed r _ => some r
      | _ => none) = some { kind := .invalidFormat, cause := .block 3 13 12 } := by decide

/-- A codec with line terminator 0x0A. -/
def codecLF : CodecParams :=
  { lineTerminator := 0x0A, separatorFailure := .ioFailure, emptyFinalChunk := false, emptyInputChunk := false
    unterminatedLine := .ordinary, emptyLine := .ordinary, acceptEmptySeparator := true }

/-- A storage whose write number `n` fails and no other access. No test looks at the output after a failure. -/
def storageFailingAt (n : Nat) (content : List Byte) : Storage :=
  { content := content, readOk := fun _ => true, writeOk := fun m => m != n
    afterFailure := fun x => x.files.written }

/-- The files after a call. -/
def filesAfter (e : ProcEnd Session Unit) : Nat × List Byte × Bool × Bool :=
  (e.state.files.writes, e.state.files.written, e.state.files.inputOpen, e.state.files.outputOpen)

/-- Vector T2 as a file of one chunk: the separator line, the encrypted chunk's line (spec/43_host_procedures.md
R127). -/
theorem test_encrypt_stream_T2 :
    filesAfter (encryptStream (storageFailingAt 9 dataT2) codecLF (fun _ _ => 0xAA) keyK2 (loaded [] [])) =
      (2, [0xAA, 0xAA, 0xAA, 0x0A, 0x5E, 0x59, 0x35, 0x2C, 0x0A], false, false) := by decide

/-- A write that fails is the last access of the call, after the two reads of the separator search
(spec/43_host_procedures.md R129). -/
theorem test_encrypt_stream_aborts_at_failed_write :
    (encryptStream (storageFailingAt 0 dataT2) codecLF (fun _ _ => 0xAA) keyK2 (loaded [] [])).state.files.journal =
      [.write, .read, .read] := by decide

/-- The separator in a line is restored to a line terminator (spec/43_host_procedures.md R128). -/
theorem test_restore_chunk : restoreChunk codecLF [0xAA, 0xBB, 0xCC] 5 [0x01, 0xAA, 0xBB, 0xCC, 0x02] =
    [0x01, 0x0A, 0x02] := by decide

/-! ## Witnesses: states that meet the hypotheses of the statements -/

theorem witness_step_runs_decoded_command : ∃ (s : State) (w : Word) (i : Instr) (rest : List HostOp),
    s.host.pending = .writeReg 0x00 w :: rest ∧ decode w = .ok i ∧ i.wellFormed = true :=
  ⟨withPending [issueOp .kdec] (loaded keyK2 []), 1, .kdec, [], rfl, rfl, rfl⟩

theorem witness_illegal_words : ∀ w ∈ ([0, 4, 0xFFFFFFFF] : List Word), ∃ (s : State) (rest : List HostOp),
    s.host.pending = .writeReg 0x00 w :: rest ∧ w ≠ 1 ∧ w ≠ 2 ∧ w ≠ 3 := by
  intro w hw
  have h : w = 0 ∨ w = 4 ∨ w = 0xFFFFFFFF := by simpa using hw
  refine ⟨withPending [.writeReg 0 w] (loaded [] []), [], rfl, ?_⟩
  rcases h with rfl | rfl | rfl <;> simp

theorem witness_kdec_truncated : ∃ s : State, s.kbufLen.toNat = 7 := ⟨loaded (keyK2.take 7) [], rfl⟩

theorem witness_kdec_header : ∃ (s : State) (h : Byte),
    s.kbufLen.toNat = 8 ∧ Memory.read s.kbuf 0 = some h ∧ h ≠ 0xFF :=
  ⟨loaded [0xFE, 0, 0, 1, 0, 0, 0, 0] [], 0xFE, rfl, rfl, by decide⟩

theorem witness_kdec_length : ∃ (s : State) (hi lo : Byte), 8 ≤ s.kbufLen.toNat ∧
    Memory.read s.kbuf 0 = some 0xFF ∧ Memory.read s.kbuf 1 = some hi ∧ Memory.read s.kbuf 2 = some lo ∧
    s.kbufLen.toNat ≠ 8 + (hi.toNat * 256 + lo.toNat) :=
  ⟨loaded (keyK2 ++ [0]) [], 0, 4, by decide, rfl, rfl, rfl, by decide⟩

theorem witness_kdec_keylen_range : ∃ (s : State) (hi lo : Byte), 8 ≤ s.kbufLen.toNat ∧
    Memory.read s.kbuf 0 = some 0xFF ∧ Memory.read s.kbuf 1 = some hi ∧ Memory.read s.kbuf 2 = some lo ∧
    s.kbufLen.toNat = 8 + (hi.toNat * 256 + lo.toNat) ∧ hi.toNat * 256 + lo.toNat = 3 :=
  ⟨loaded [0xFF, 0, 3, 1, 0, 0, 0, 1, 2, 3, 0] [], 0, 3, by decide, rfl, rfl, rfl, rfl, rfl⟩

theorem witness_kdec_finalizer : ∃ (s : State) (hi lo f : Byte), 8 ≤ s.kbufLen.toNat ∧
    Memory.read s.kbuf 0 = some 0xFF ∧ Memory.read s.kbuf 1 = some hi ∧ Memory.read s.kbuf 2 = some lo ∧
    s.kbufLen.toNat = 8 + (hi.toNat * 256 + lo.toNat) ∧ hi.toNat * 256 + lo.toNat = 4 ∧
    Memory.read s.kbuf (7 + (hi.toNat * 256 + lo.toNat)) = some f ∧ f ≠ 0x00 :=
  ⟨loaded [0xFF, 0, 4, 1, 0, 0, 0, 1, 2, 3, 4, 1] [], 0, 4, 1, by decide⟩

theorem witness_kdec_success : ∃ (s : State) (hi lo f jf b2 b1 b0 : Byte), 8 ≤ s.kbufLen.toNat ∧
    Memory.read s.kbuf 0 = some 0xFF ∧ Memory.read s.kbuf 1 = some hi ∧ Memory.read s.kbuf 2 = some lo ∧
    s.kbufLen.toNat = 8 + (hi.toNat * 256 + lo.toNat) ∧ hi.toNat * 256 + lo.toNat = 4 ∧
    Memory.read s.kbuf (7 + (hi.toNat * 256 + lo.toNat)) = some f ∧ f = 0x00 ∧
    Memory.read s.kbuf 3 = some jf ∧ Memory.read s.kbuf 4 = some b2 ∧ Memory.read s.kbuf 5 = some b1 ∧
    Memory.read s.kbuf 6 = some b0 :=
  ⟨loaded keyK2 [], 0, 4, 0, 0xFF, 0, 0, 0, by decide⟩

theorem witness_failed_kdec : ∃ s t : State, exec .kdec s = .next t ∧ t.err = true :=
  ⟨loaded [] [], _, rfl, rfl⟩

theorem witness_kdec_on_written_candidate : ∃ (s : State) (c : Nat → Byte),
    (∀ a ≤ 6, Memory.read s.kbuf a = some (c a)) ∧
    (s.kbufLen.toNat = 8 + (c 1).toNat * 256 + (c 2).toNat →
      (Memory.read s.kbuf (s.kbufLen.toNat - 1)).isSome) :=
  ⟨loaded keyK2 [], fun a => keyK2.getD a 0, by decide, by decide⟩

theorem witness_kdec_next : ∃ s t : State, exec .kdec s = .next t ∧ t.ok = true := ⟨loaded keyK2 [], _, rfl, rfl⟩

theorem witness_kdec_other_key_block : ∃ (s t : State) (kb : Memory),
    (∀ a ≤ 6, Memory.read kb a = Memory.read s.kbuf a) ∧
    Memory.read kb (s.kbufLen.toNat - 1) = Memory.read s.kbuf (s.kbufLen.toNat - 1) ∧
    exec .kdec s = .next t ∧ kb ≠ s.kbuf :=
  ⟨loaded keyK2 [], _, cells (keyK2.take 7) ++ [(8, 0x77), (11, 0x00)], by decide, by decide, rfl, by decide⟩

theorem witness_kdec_other_jump_fields : ∃ (s t : State) (kb : Memory), exec .kdec s = .next t ∧
    Memory.read kb (s.kbufLen.toNat - 1) = Memory.read s.kbuf (s.kbufLen.toNat - 1) ∧
    (∀ a ≤ 2, Memory.read kb a = Memory.read s.kbuf a) ∧ writtenBelow kb 7 ∧
    Memory.read kb 3 ≠ Memory.read s.kbuf 3 :=
  ⟨loaded keyK2 [], _, cells ([0xFF, 0, 4, 0, 1, 2, 3] ++ keyK2.drop 7), rfl, by decide, by decide,
    by unfold writtenBelow; decide, by decide⟩

theorem witness_kdec_fault_at_first_cell : ∃ s : State, exec .kdec s = .fault (.noValue .kbuf 0) :=
  ⟨{ loaded [] [] with kbufLen := 8 }, rfl⟩

theorem witness_kdec_fault_at_last_cell : ∃ s : State, exec .kdec s = .fault (.noValue .kbuf 65542) :=
  ⟨{ loaded [0xFF, 0xFF, 0xFF, 0, 0, 0, 0] [] with kbufLen := 65543 }, rfl⟩

theorem witness_kdec_beyond_buffer : ∃ s : State, 65543 < s.kbufLen.toNat ∧ writtenBelow s.kbuf 3 :=
  ⟨{ loaded keyK2 [] with kbufLen := 65544 }, by decide, by unfold writtenBelow; decide⟩

theorem witness_key_in_kbuf : ∃ (s : State) (jf : Byte) (jl : BitVec 24) (blk : List Byte),
    blk.length = 4 ∧ s.kbufLen = BitVec.ofNat 32 (8 + blk.length) ∧ holdsAt s.kbuf 0 (keyEncode jf jl blk) :=
  ⟨loaded keyK2 [], 0xFF, 0, [1, 2, 3, 4], rfl, rfl, by unfold holdsAt; decide⟩

theorem witness_jump_interval_boundaries : ∃ n n' jf jf' : Nat,
    n = 47 ∧ n' = 63 ∧ jf = 0 ∧ jf' = 255 ∧ n' < 2 ^ 32 := ⟨47, 63, 0, 255, by decide⟩

theorem witness_jump_interval_monotone : ∃ n m jf jf' : Nat,
    n ≤ m ∧ n / 16 = m / 16 ∧ jf ≤ jf' ∧ jf' ≤ 255 := ⟨48, 63, 254, 255, by decide⟩

theorem witness_jump_distance : ∀ l ∈ [4, 65535], ∃ jl : Nat, jl ≤ 16777215 ∧ 4 ≤ l ∧ l ≤ 65535 ∧ jl < l := by
  intro l hl
  exact ⟨0, by revert l; decide⟩

theorem witness_no_key : ∃ s : State, s.kvalid = false ∧ s.cfg.dmax.toNat < s.dlen.toNat :=
  ⟨{ loaded keyK2 [] with dlen := 1025 }, rfl, by decide⟩

theorem witness_length_beyond_dmax : ∃ s : State, s.kvalid = true ∧ s.dlen.toNat = s.cfg.dmax.toNat + 1 :=
  ⟨{ decoded [] with dlen := 1025 }, rfl, rfl⟩

theorem witness_length_at_dmax : ∃ s t : State, s.kvalid = true ∧ s.dlen.toNat = s.cfg.dmax.toNat ∧
    exec .enc s = .next t :=
  ⟨{ decoded [0x55] with cfg := ⟨1, .exact⟩ }, _, rfl, rfl, rfl⟩

theorem witness_empty_transform : ∃ s s' : State, s.dlen = 0 ∧ s.kvalid = true ∧ s'.dlen = 0 ∧ s'.kvalid = false :=
  ⟨decoded [], loaded [] [], rfl, rfl, rfl, rfl⟩

/-- A byte step without a jump (CNT = 2) and one with a jump (CNT = 1) from the last cursor. -/
theorem witness_byte_step : ∀ c ∈ [1, 2], ∃ (s : State) (k d : Byte), s.cnt = c ∧ s.pos + 1 = s.klen.toNat ∧
    s.cnt ≤ s.jint ∧ Memory.read s.kbuf (7 + s.pos) = some k ∧ Memory.read s.dbuf s.idx = some d := by
  intro c hc
  exact ⟨{ startTransform (decoded dataT2) with pos := 3, cnt := c }, 4, 0x54, rfl, rfl, by revert c; decide,
    rfl, rfl⟩

theorem decoded_ready : TransformReady (decoded dataT2) := ⟨rfl, by decide, by decide⟩

theorem witness_schedule_first_and_last_step : ∀ k ∈ [0, 39], ∃ (s t : State), 4 ≤ s.klen.toNat ∧
    k < 10 * s.dlen.toNat ∧ (runByteSteps .decrypt k (startTransform s) = .next t) := by
  intro k hk
  have h : k = 0 ∨ k = 39 := by simpa using hk
  rcases h with rfl | rfl
  · exact ⟨decoded dataT2, _, by decide, by decide, rfl⟩
  · exact ⟨decoded dataT2, _, by decide, by decide, rfl⟩

/-- The key block of K2 and the data of T2 as functions. -/
def blockK2 (j : Nat) : Byte := keyK2.getD (7 + j) 0
def inputT2 (j : Nat) : Byte := dataT2.getD j 0

theorem decoded_visited : visitedBlock (decoded dataT2) blockK2 := by unfold visitedBlock; decide
theorem decoded_data : dataIs (decoded dataT2) inputT2 := by unfold dataIs; decide

theorem witness_transform_closed_form : ∃ (s : State) (blk inp : Nat → Byte),
    TransformReady s ∧ visitedBlock s blk ∧ dataIs s inp ∧ s.dlen ≠ 0 :=
  ⟨decoded dataT2, blockK2, inputT2, decoded_ready, decoded_visited, decoded_data, by decide⟩

theorem witness_transform_next : ∃ s t u : State, TransformReady s ∧ exec .enc s = .next t ∧ exec .dec s = .next u :=
  ⟨decoded dataT2, _, _, decoded_ready, rfl, rfl⟩

theorem witness_transform_fault : ∃ s : State, TransformReady s ∧ exec .dec s = .fault (.noValue .kbuf 9) :=
  ⟨{ decoded dataT2 with kbuf := cells (keyK2.take 9) }, ⟨rfl, by decide, by decide⟩, rfl⟩

theorem witness_agree_on_inputs : ∃ s s' t : State, TransformReady s ∧ AgreeOnInputs s s' ∧ s ≠ s' ∧
    exec .enc s = .next t :=
  ⟨decoded dataT2, { decoded (dataT2 ++ [0x99]) with dlen := 4, kbufLen := 99, pos := 3 }, _, decoded_ready,
    ⟨rfl, rfl, rfl, rfl, rfl, rfl, by decide, by decide⟩, by decide, rfl⟩

theorem witness_two_data : ∃ (s t t' : State) (db : Memory) (inp inp' : Nat → Byte), TransformReady s ∧
    dataIs s inp ∧ dataIs { s with dbuf := db } inp' ∧ exec .enc s = .next t ∧
    exec .enc { s with dbuf := db } = .next t' ∧ db ≠ s.dbuf :=
  ⟨decoded dataT2, _, _, cells [0, 0xFF, 1, 2], inputT2, fun j => ([0, 0xFF, 1, 2] : List Byte).getD j 0, decoded_ready,
    decoded_data, by unfold dataIs; decide, rfl, rfl, by decide⟩

theorem witness_negated_block : ∃ (s : State) (kb : Memory) (blk : Nat → Byte), TransformReady s ∧
    visitedBlock s blk ∧ visitedBlock { s with kbuf := kb } (fun j => BitVec.ofNat 8 (256 - (blk j).toNat)) ∧
    writtenBelow s.dbuf s.dlen.toNat :=
  ⟨decoded dataT2, cells (keyK2.take 7 ++ [0xFF, 0xFE, 0xFD, 0xFC, 0x00]), blockK2, decoded_ready, decoded_visited,
    by unfold visitedBlock; decide, by unfold writtenBelow; decide⟩

/-- Key K1's block, and a block of zeros (vector T8). -/
theorem witness_uniform_block : ∀ c ∈ ([0x00, 0x41] : List Byte), ∃ (s : State) (inp : Nat → Byte),
    TransformReady s ∧ visitedBlock s (fun _ => c) ∧ dataIs s inp := by
  intro c hc
  have h : c = 0x00 ∨ c = 0x41 := by simpa using hc
  refine ⟨{ decoded dataT2 with kbuf := cells (keyK2.take 7 ++ [c, c, c, c, 0x00]) }, inputT2,
    { decoded_ready with }, ?_, decoded_data⟩
  rcases h with rfl | rfl <;> unfold visitedBlock <;> decide

theorem witness_passes : ∃ (s : State) (blk : Nat → Byte), TransformReady s ∧ visitedBlock s blk ∧
    writtenBelow s.dbuf s.dlen.toNat ∧ s.dlen ≠ 0 :=
  ⟨decoded dataT2, blockK2, decoded_ready, decoded_visited, by unfold writtenBelow; decide, by decide⟩

theorem witness_commands_record : ∀ w ∈ ([0, 1, 2, 3] : List Word), ∃ s t : State,
    issueCommand w s = .next t ∧ t.err = true := by
  intro w hw
  have h : w = 0 ∨ w = 1 ∨ w = 2 ∨ w = 3 := by simpa using hw
  rcases h with rfl | rfl | rfl | rfl <;> exact ⟨loaded [] dataT2, _, rfl, rfl⟩

theorem witness_byte_accesses : ∃ s : State, (∃ a, a + 1 = capacityOf .kbuf s ∧ Memory.read s.kbuf a = none) ∧
    (∃ a, a + 1 = capacityOf .dbuf s ∧ Memory.read s.dbuf a = none) ∧
    (∃ v, Memory.read s.kbuf 0 = some v) ∧ (∃ v, Memory.read s.dbuf 0 = some v) :=
  ⟨decoded dataT2, ⟨65542, rfl, rfl⟩, ⟨1023, rfl, rfl⟩, ⟨0xFF, rfl⟩, ⟨0x54, rfl⟩⟩

theorem witness_wellformed_access : ∃ (op : HostOp) (s : State), op.wellFormed s.cfg.dmax = true ∧
    ∀ w, op ≠ .writeReg 0x00 w :=
  ⟨.readByte .dbuf 1023, decoded [], by decide, by simp⟩

theorem witness_kvalid_set : ∃ s t : State, hostStep (.writeReg 0x00 1) s = .next t ∧ s.kvalid = false ∧
    t.kvalid = true := ⟨loaded keyK2 [], _, rfl, rfl, rfl⟩

theorem witness_kvalid_cleared : ∃ s : State, s.kvalid = true ∧
    (∃ t, hostStep .reset s = .next t) ∧ (∃ t, hostStep (.writeReg 0x00 1) s = .next t ∧ t.err = true) ∧
    (∃ t, hostStep (.writeByte .kbuf 7 1) s = .next t) ∧ (∃ t, hostStep (.writeReg 0x18 12) s = .next t) :=
  ⟨{ decoded [] with kbufLen := 7 }, rfl, ⟨_, rfl⟩, ⟨_, rfl, rfl⟩, ⟨_, rfl⟩, ⟨_, rfl⟩⟩

theorem witness_loads : ∃ (s : State) (bytes : List Byte), bytes.length = 12 ∧ bytes.length ≤ 65543 ∧
    bytes.length ≤ s.cfg.dmax.toNat := ⟨loaded [] [], keyK2, rfl, by decide, by decide⟩

theorem witness_readd : ∃ (s : State) (bytes : List Byte), bytes ≠ [] ∧ bytes.length ≤ s.cfg.dmax.toNat ∧
    holdsAt s.dbuf 0 bytes := ⟨decoded dataT2, dataT2, by decide, by decide, by unfold holdsAt; decide⟩

theorem decoded_inv : Inv (decoded dataT2) where
  dmax_pos := by decide
  kbuf_wf := by decide
  dbuf_wf := by decide
  ok_err := by decide
  errcode_err := by decide
  no_error := by decide
  error_codes := by decide
  key_framed := fun _ => ⟨rfl, by decide, rfl, ⟨0, 4, rfl, rfl, rfl⟩, rfl, ⟨0, 0, 0, rfl, rfl, rfl, rfl⟩, rfl⟩
  pos_width := by decide
  cnt_width := by decide
  jint_width := by decide
  jdist_width := by decide
  pass_range := by decide
  idx_width := by decide

theorem witness_step_from_invariant : ∃ s t : State, Inv s ∧ step s = .next t ∧ s ≠ t :=
  ⟨withPending [issueOp .enc] (decoded dataT2), _,
    { decoded_inv with key_framed := fun h => { decoded_inv.key_framed h with } }, rfl, by decide⟩

theorem witness_written_buffers : ∃ s : State, Inv s ∧ writtenBelow s.kbuf (min s.kbufLen.toNat 65543) ∧
    (s.dlen.toNat ≤ s.cfg.dmax.toNat → writtenBelow s.dbuf s.dlen.toNat) ∧ s.kvalid = true ∧ s.dlen ≠ 0 :=
  ⟨decoded dataT2, decoded_inv, by unfold writtenBelow; decide, by unfold writtenBelow; decide, rfl, by decide⟩

theorem witness_bring_up : ∃ (s : State) (blk data : List Byte), blk.length = 4 ∧ blk.length ≤ 65535 ∧
    data ≠ [] ∧ data.length ≤ s.cfg.dmax.toNat := ⟨loaded [] [], [1, 2, 3, 4], dataT2, rfl, by decide, by decide, by decide⟩

theorem witness_passphrase : ∃ p : List Byte, p.length = 4 ∧ p.length ≤ 65535 := ⟨dataT2, rfl, by decide⟩

theorem witness_candidate_at_capacity : ∃ bytes : List Byte, bytes.length = 65543 := ⟨List.replicate 65543 0, List.length_replicate⟩

theorem witness_transform_procedure : ∃ (s s' : State) (data : List Byte),
    data.length ≤ s.cfg.dmax.toNat ∧ s.kvalid = true ∧ s.klen.toNat = 4 ∧
    (∀ j < s.klen.toNat, (keyBlock s j).isSome) ∧ data.length ≤ s'.cfg.dmax.toNat ∧ s'.kvalid = false :=
  ⟨{ decoded [] with cfg := ⟨4, .exact⟩ }, loaded [] [], dataT2, by decide, rfl, rfl, by decide, by decide, rfl⟩

/-- The first fitting separator has length 3. -/
theorem witness_separator_of_length_3 : ∃ (st : Storage) (p : CodecParams) (draw : Nat → Nat → Byte),
    (∀ n, st.readOk n = true) ∧ separatorFits st p (tokenOf draw 3) := by
  refine ⟨storageFailingAt 0 [], codecLF, fun _ _ => 1, fun _ => rfl, by decide, fun m => ?_⟩
  have h : tokenOf (fun _ _ => 1) 3 ≠ [] := by decide
  simpa [storageFailingAt] using h

/-- The first fitting separator has length 64. -/
theorem witness_separator_of_length_64 : ∃ (st : Storage) (p : CodecParams) (draw : Nat → Nat → Byte),
    (∀ n, st.readOk n = true) ∧ separatorFits st p (tokenOf draw 64) ∧
    ∀ k, 3 ≤ k → k < 64 → ¬ separatorFits st p (tokenOf draw k) := by
  refine ⟨storageFailingAt 0 [], codecLF, fun len _ => if len < 64 then 0x0A else 1, fun _ => rfl,
    ⟨by simp [tokenOf, codecLF], fun m => by simp [storageFailingAt, tokenOf]⟩, fun k h3 h64 hf => hf.1 ?_⟩
  simp only [tokenOf, h64, if_true, codecLF, List.mem_map, List.mem_range]
  exact ⟨0, by omega, trivial⟩

theorem witness_no_separator : ∃ (st : Storage) (p : CodecParams) (draw : Nat → Nat → Byte),
    (∀ n, st.readOk n = true) ∧ ∀ n, 3 ≤ n → n ≤ 64 → ¬ separatorFits st p (tokenOf draw n) := by
  refine ⟨storageFailingAt 0 [], codecLF, fun _ _ => 0x0A, fun _ => rfl, fun n h3 _ hf => hf.1 ?_⟩
  simp only [tokenOf, codecLF, List.mem_map, List.mem_range]
  exact ⟨0, by omega, trivial⟩

theorem witness_codec_calls : ∃ e e' : ProcEnd Session Unit,
    e = encryptStream (storageFailingAt 0 dataT2) codecLF (fun _ _ => 1) keyK2 (loaded [] []) ∧
    e' = decryptStream (storageFailingAt 0 dataT2) codecLF keyK2 (loaded [] []) := ⟨_, _, rfl, rfl⟩

theorem witness_generate_key_arguments : ∀ klen ∈ ([3, 4, 65535, 65536] : List Int), ∀ jf ∈ ([-1, 0, 1, 255, 256] : List Int),
    ∀ v ∈ ([-1, 0, 16777215, 16777216] : List Int), (klen < 4 ∨ 65535 < klen) ∨
      (4 ≤ klen ∧ klen ≤ 65535 ∧ jf ≠ -1 ∧ (jf < 1 ∨ 255 < jf)) ∨
      (4 ≤ klen ∧ klen ≤ 65535 ∧ (jf = -1 ∨ (1 ≤ jf ∧ jf ≤ 255)) ∧
        ((v < 0 ∨ 16777215 < v) ∨ (0 ≤ v ∧ v ≤ 16777215))) := by decide

end Sys2Proof.Tests
end

/-!
PROOFS. The two formats of spec/30_encoding.md: the command word (R64, R65) and the Key (R60, R71).
-/

namespace Sys2Proof.Machine

/-! ## Format C: the command word -/

/-- A word whose field `zero` is clear is its field `op` (spec/30_encoding.md R64). -/
theorem eq_opField_of_zeroField_clear {w : Word} (h : zeroField w = 0) : w = (opField w).setWidth 32 := by
  have hz : w.toNat / 4 % 2 ^ 30 = 0 := by
    simpa [zeroField, Nat.shiftRight_eq_div_pow] using congrArg BitVec.toNat h
  apply BitVec.eq_of_toNat_eq
  simp only [opField, BitVec.toNat_setWidth, BitVec.extractLsb'_toNat, Nat.shiftRight_zero]
  have := w.isLt
  omega

/-- A word that decodes is the word of the command it decodes to. -/
theorem eq_encode_of_decode_ok {w : Word} {i : Instr} (h : decode w = .ok i) : w = encode i := by
  unfold decode at h
  split at h
  · cases h
  rename_i hz
  have hw := eq_opField_of_zeroField_clear (Decidable.not_not.mp hz)
  split at h
  · rename_i hop; cases h; rw [hw, hop]; rfl
  split at h
  · rename_i hop; cases h; rw [hw, hop]; rfl
  split at h
  · rename_i hop; cases h; rw [hw, hop]; rfl
  · cases h

/-- A word outside the table of spec/30_encoding.md R64 runs no command and records BADCMD. -/
theorem issueCommand_of_ne_encode {w : Word} (h : ∀ i, w ≠ encode i) (s : State) :
    issueCommand w s = .next (illegalCommand w s) := by
  rcases issueCommand_cases w s with ⟨i, hi, _⟩ | ⟨_, _, hw⟩
  · exact absurd (eq_encode_of_decode_ok hi) (h i)
  · exact hw

/-- A step whose operation is a CMD write issues the word written (spec/10_state.md R26). -/
theorem step_cmdWrite {s : State} {w : Word} {rest : List HostOp}
    (h : s.host.pending = .writeReg 0x00 w :: rest) : step s = issueCommand w (withPending rest s) := by
  simp only [step, takeOp_cons h]
  rfl

/-- Settles O2: a word other than 1, 2 and 3 is no command's word, so its CMD write ends in BADCMD. -/
theorem illegalWordRecordsBadcmdOnly : Obligations.IllegalWordRecordsBadcmdOnly := by
  unfold Obligations.IllegalWordRecordsBadcmdOnly
  intro s w rest hop h1 h2 h3
  have hne : ∀ i, w ≠ encode i
    | .kdec => h1
    | .enc => h2
    | .dec => h3
  rw [step_cmdWrite hop, issueCommand_of_ne_encode hne]
  rfl

/-! ## Format K: the Key -/

@[simp] theorem holdsAt_nil (m : Memory) (base : Nat) : holdsAt m base [] := by
  simp [holdsAt]

@[simp] theorem holdsAt_cons (m : Memory) (base : Nat) (b : Byte) (bs : List Byte) :
    holdsAt m base (b :: bs) ↔ Memory.read m base = some b ∧ holdsAt m (base + 1) bs := by
  constructor
  · intro h
    refine ⟨h 0 (by simp), fun i hi => ?_⟩
    simpa [Nat.add_assoc, Nat.add_comm 1] using h (i + 1) (Nat.succ_lt_succ hi)
  · rintro ⟨h0, hs⟩ i hi
    cases i with
    | zero => exact h0
    | succ i => simpa [Nat.add_assoc, Nat.add_comm 1] using hs i (Nat.lt_of_succ_lt_succ hi)

@[simp] theorem holdsAt_append (m : Memory) (base : Nat) (as bs : List Byte) :
    holdsAt m base (as ++ bs) ↔ holdsAt m base as ∧ holdsAt m (base + as.length) bs := by
  induction as generalizing base with
  | nil => simp
  | cons a as ih => simp [ih, and_assoc, Nat.add_assoc, Nat.add_comm 1]

theorem keyEncode_length (jf : Byte) (jl : BitVec 24) (blk : List Byte) :
    (keyEncode jf jl blk).length = 8 + blk.length := by
  simp only [keyEncode, List.length_append, List.length_cons, List.length_nil]
  omega

/-- The cells of a buffer that holds a Key from index 0 on, field by field (spec/30_encoding.md R60). -/
theorem holdsAt_keyEncode (m : Memory) (jf : Byte) (jl : BitVec 24) (blk : List Byte) :
    holdsAt m 0 (keyEncode jf jl blk) ↔
      Memory.read m 0 = some 0xFF ∧
      Memory.read m 1 = some (BitVec.ofNat 8 (blk.length / 256)) ∧
      Memory.read m 2 = some (BitVec.ofNat 8 (blk.length % 256)) ∧
      Memory.read m 3 = some jf ∧
      Memory.read m 4 = some (BitVec.ofNat 8 (jl.toNat / 65536)) ∧
      Memory.read m 5 = some (BitVec.ofNat 8 (jl.toNat / 256 % 256)) ∧
      Memory.read m 6 = some (BitVec.ofNat 8 (jl.toNat % 256)) ∧
      holdsAt m Config.blockOffset blk ∧
      Memory.read m (blockAddr blk.length) = some 0x00 := by
  simp [keyEncode, blockAddr, Config.blockOffset, Config.header, Config.finalizer, Nat.add_comm]

/-- `key_len` read back from the two bytes KeyEncode writes for it (spec/30_encoding.md R61, R71). -/
theorem be16_of_bytes (n : Nat) : be16 (BitVec.ofNat 8 (n / 256)) (BitVec.ofNat 8 (n % 256)) = BitVec.ofNat 16 n := by
  apply BitVec.eq_of_toNat_eq
  simp only [be16_toNat, BitVec.toNat_ofNat]
  omega

/-- `jump_length` read back from the three bytes KeyEncode writes for it (spec/30_encoding.md R61, R71). -/
theorem be24_of_bytes (jl : BitVec 24) :
    be24 (BitVec.ofNat 8 (jl.toNat / 65536)) (BitVec.ofNat 8 (jl.toNat / 256 % 256))
      (BitVec.ofNat 8 (jl.toNat % 256)) = jl := by
  apply BitVec.eq_of_toNat_eq
  simp only [be24_toNat, BitVec.toNat_ofNat]
  have := jl.isLt
  omega

/-- KDEC's read of a KBUF cell, after the key is withdrawn (spec/40_key_decode.md R80). -/
theorem withCell_kbuf_withdrawKey {s : State} {a : Nat} {v : Byte} (k : Byte → Result)
    (h : Memory.read s.kbuf a = some v) : withCell .kbuf a (withdrawKey s) k = k v :=
  withCell_some k h

/-- KDEC completes on cells that pass its five checks: the converse of the second case of `execKdec_next`
(spec/40_key_decode.md R80). -/
theorem execKdec_of_framed {s : State} {hi lo jf b2 b1 b0 : Byte} (h0 : Memory.read s.kbuf 0 = some 0xFF)
    (h1 : Memory.read s.kbuf 1 = some hi) (h2 : Memory.read s.kbuf 2 = some lo)
    (hlen : s.kbufLen.toNat = 8 + (be16 hi lo).toNat) (hmin : 4 ≤ (be16 hi lo).toNat)
    (hf : Memory.read s.kbuf (blockAddr (be16 hi lo).toNat) = some 0x00)
    (h3 : Memory.read s.kbuf 3 = some jf) (h4 : Memory.read s.kbuf 4 = some b2)
    (h5 : Memory.read s.kbuf 5 = some b1) (h6 : Memory.read s.kbuf 6 = some b0) :
    execKdec s = .next (complete
      { s with klen := be16 hi lo, jfreq := jf, jlen := be24 b2 b1 b0, kvalid := true }) := by
  have notTruncated : ¬ s.kbufLen.toNat < Config.keyOverhead := by
    simp only [Config.keyOverhead]
    omega
  have lengthFits : ¬ s.kbufLen.toNat ≠ Config.keyOverhead + (be16 hi lo).toNat := not_not.mpr hlen
  have inRange : ¬ (be16 hi lo).toNat < Config.klenMin := Nat.not_lt.mpr hmin
  unfold execKdec
  dsimp only
  rw [if_neg notTruncated, withCell_kbuf_withdrawKey _ h0, if_neg (by decide),
    withCell_kbuf_withdrawKey _ h1, withCell_kbuf_withdrawKey _ h2, if_neg lengthFits, if_neg inRange,
    withCell_kbuf_withdrawKey _ hf, if_neg (by decide), withCell_kbuf_withdrawKey _ h3,
    withCell_kbuf_withdrawKey _ h4, withCell_kbuf_withdrawKey _ h5, withCell_kbuf_withdrawKey _ h6]
  rfl

/-- A length of at most 65535 fits KLEN (spec/10_state.md R13). -/
theorem toNat_ofNat_klen {n : Nat} (h : n ≤ 65535) : (BitVec.ofNat 16 n).toNat = n :=
  Nat.mod_eq_of_lt (Nat.lt_succ_of_le h)

/-- KDEC over the bytes of KeyEncode yields exactly what was encoded (spec/30_encoding.md R71). -/
theorem execKdec_keyEncode {s : State} {jf : Byte} {jl : BitVec 24} {blk : List Byte}
    (hmin : 4 ≤ blk.length) (hmax : blk.length ≤ 65535) (hn : s.kbufLen = BitVec.ofNat 32 (8 + blk.length))
    (hkey : holdsAt s.kbuf 0 (keyEncode jf jl blk)) :
    execKdec s = .next (complete
      { s with klen := BitVec.ofNat 16 blk.length, jfreq := jf, jlen := jl, kvalid := true }) := by
  obtain ⟨h0, h1, h2, h3, h4, h5, h6, -, hf⟩ := (holdsAt_keyEncode ..).mp hkey
  have hkl : (be16 (BitVec.ofNat 8 (blk.length / 256)) (BitVec.ofNat 8 (blk.length % 256))).toNat = blk.length := by
    rw [be16_of_bytes, toNat_ofNat_klen hmax]
  have hlen : s.kbufLen.toNat = 8 + blk.length := by
    rw [hn, BitVec.toNat_ofNat]
    omega
  rw [execKdec_of_framed h0 h1 h2 (by rw [hkl, hlen]) (by rwa [hkl]) (by rwa [hkl]) h3 h4 h5 h6,
    be16_of_bytes, be24_of_bytes]

/-- Settles O11: the layout is KeyEncode's definition, and KDEC reads back each of its fields. -/
theorem kdecDecodesWhatKeyEncodeWrites : Obligations.KdecDecodesWhatKeyEncodeWrites := by
  unfold Obligations.KdecDecodesWhatKeyEncodeWrites
  intro s jf jl blk hmin hmax hn hkey
  obtain ⟨-, -, -, -, -, -, -, hblk, -⟩ := (holdsAt_keyEncode ..).mp hkey
  have hklen := toNat_ofNat_klen hmax
  refine ⟨rfl, keyEncode_length jf jl blk, _, execKdec_keyEncode hmin hmax hn hkey, rfl, hklen, rfl, rfl,
    fun j hj => ?_, ⟨rfl, rfl, rfl, rfl, rfl, rfl⟩⟩
  rw [keyBlock, if_pos ⟨rfl, lt_of_lt_of_eq hj hklen.symm⟩]
  exact hblk j hj

end Sys2Proof.Machine

/-!
PROOFS. KDEC, the key-format decoder (spec/40_key_decode.md R80 to R87). Its checks are stated as conditions on
KBUF_LEN and KBUF alone (`KdecRejects`, `KdecAccepts`); `execKdec_eq_next_iff` ties them to the machine, both ways.
-/

namespace Sys2Proof.Machine

/-! ## The checks, as conditions on KBUF_LEN and KBUF -/

/-- KDEC gets as far as `key_len`, and reads it as `kl`: the checks TRUNCATED and HEADER pass. -/
structure KeyLenRead (n : Word) (m : Memory) (kl : BitVec 16) : Prop where
  overhead : ¬ n.toNat < Config.keyOverhead
  header   : Memory.read m 0 = some Config.header
  bytes    : ∃ hi lo, Memory.read m 1 = some hi ∧ Memory.read m 2 = some lo ∧ kl = be16 hi lo

/-- The first check that fails and what it reports, in the order of spec/40_key_decode.md R80. -/
inductive KdecRejects (n : Word) (m : Memory) : ErrSub → Word → Word → Prop where
  | truncated (short : n.toNat < Config.keyOverhead) : KdecRejects n m .truncated 8 n
  | header {h : Byte} (overhead : ¬ n.toNat < Config.keyOverhead) (cell : Memory.read m 0 = some h)
      (wrong : h ≠ Config.header) : KdecRejects n m .header 0xFF (h.setWidth 32)
  | length {kl : BitVec 16} (pre : KeyLenRead n m kl) (wrong : n.toNat ≠ Config.keyOverhead + kl.toNat) :
      KdecRejects n m .length (BitVec.ofNat 32 (Config.keyOverhead + kl.toNat)) n
  | keylenRange {kl : BitVec 16} (pre : KeyLenRead n m kl) (length : n.toNat = Config.keyOverhead + kl.toNat)
      (small : kl.toNat < Config.klenMin) : KdecRejects n m .keylenRange 4 (kl.setWidth 32)
  | finalizer {kl : BitVec 16} {f : Byte} (pre : KeyLenRead n m kl)
      (length : n.toNat = Config.keyOverhead + kl.toNat) (range : ¬ kl.toNat < Config.klenMin)
      (cell : Memory.read m (blockAddr kl.toNat) = some f) (wrong : f ≠ Config.finalizer) :
      KdecRejects n m .finalizer 0x00 (f.setWidth 32)

/-- All five checks pass on a candidate that declares the key length `kl`. -/
structure KdecAccepts (n : Word) (m : Memory) (kl : BitVec 16) : Prop where
  pre       : KeyLenRead n m kl
  length    : n.toNat = Config.keyOverhead + kl.toNat
  range     : ¬ kl.toNat < Config.klenMin
  finalizer : Memory.read m (blockAddr kl.toNat) = some Config.finalizer

/-- Cells 3 to 6 hold the jump fields `jf` and `jl`, which KDEC reads and does not check. -/
def JumpFieldsRead (m : Memory) (jf : Byte) (jl : BitVec 24) : Prop :=
  Memory.read m 3 = some jf ∧ ∃ b2 b1 b0, Memory.read m 4 = some b2 ∧ Memory.read m 5 = some b1 ∧
    Memory.read m 6 = some b0 ∧ jl = be24 b2 b1 b0

/-- The next state of a KDEC issued in `s`. -/
inductive KdecOutcome (s : State) : State → Prop where
  | rejected {sub : ErrSub} {exp act : Word} (checks : KdecRejects s.kbufLen s.kbuf sub exp act) :
      KdecOutcome s (raiseError .invalidFormat sub exp act (withdrawKey s))
  | accepted {kl : BitVec 16} {jf : Byte} {jl : BitVec 24} (checks : KdecAccepts s.kbufLen s.kbuf kl)
      (fields : JumpFieldsRead s.kbuf jf jl) :
      KdecOutcome s (complete { s with klen := kl, jfreq := jf, jlen := jl, kvalid := true })

/-! ## What KDEC does, both ways -/

/-- KDEC reports the check that fails. -/
theorem execKdec_of_rejects {s : State} {sub : ErrSub} {exp act : Word}
    (checks : KdecRejects s.kbufLen s.kbuf sub exp act) : execKdec s = failKdec sub exp act (withdrawKey s) := by
  unfold execKdec
  dsimp only
  cases checks with
  | truncated short => rw [if_pos short]
  | header overhead cell wrong =>
    rw [if_neg overhead, withCell_kbuf_withdrawKey _ cell, if_pos wrong]
  | length pre wrong =>
    obtain ⟨overhead, header, hi, lo, h1, h2, rfl⟩ := pre
    rw [if_neg overhead, withCell_kbuf_withdrawKey _ header, if_neg (by decide),
      withCell_kbuf_withdrawKey _ h1, withCell_kbuf_withdrawKey _ h2, if_pos wrong]
  | keylenRange pre length small =>
    obtain ⟨overhead, header, hi, lo, h1, h2, rfl⟩ := pre
    rw [if_neg overhead, withCell_kbuf_withdrawKey _ header, if_neg (by decide),
      withCell_kbuf_withdrawKey _ h1, withCell_kbuf_withdrawKey _ h2, if_neg (not_not.mpr length), if_pos small]
  | finalizer pre length range cell wrong =>
    obtain ⟨overhead, header, hi, lo, h1, h2, rfl⟩ := pre
    rw [if_neg overhead, withCell_kbuf_withdrawKey _ header, if_neg (by decide),
      withCell_kbuf_withdrawKey _ h1, withCell_kbuf_withdrawKey _ h2, if_neg (not_not.mpr length), if_neg range,
      withCell_kbuf_withdrawKey _ cell, if_pos wrong]

/-- KDEC decodes a candidate that passes the checks. -/
theorem execKdec_of_accepts {s : State} {kl : BitVec 16} {jf : Byte} {jl : BitVec 24}
    (checks : KdecAccepts s.kbufLen s.kbuf kl) (fields : JumpFieldsRead s.kbuf jf jl) :
    execKdec s = .next (complete { s with klen := kl, jfreq := jf, jlen := jl, kvalid := true }) := by
  obtain ⟨⟨-, header, hi, lo, h1, h2, rfl⟩, length, range, finalizer⟩ := checks
  obtain ⟨h3, b2, b1, b0, h4, h5, h6, rfl⟩ := fields
  exact execKdec_of_framed header h1 h2 length (Nat.le_of_not_lt range) finalizer h3 h4 h5 h6

/-- A KDEC that goes on has reported its first failing check or decoded the key. -/
theorem KdecOutcome.of_execKdec {s t : State} (h : execKdec s = .next t) : KdecOutcome s t := by
  unfold execKdec failKdec at h
  dsimp only at h
  split at h
  next short => cases h; exact .rejected (.truncated short)
  next overhead =>
  obtain ⟨hd, h0, h⟩ := withCell_next h
  split at h
  next wrong => cases h; exact .rejected (.header overhead h0 wrong)
  next header =>
  obtain ⟨hi, h1, h⟩ := withCell_next h
  obtain ⟨lo, h2, h⟩ := withCell_next h
  have pre : KeyLenRead s.kbufLen s.kbuf (be16 hi lo) :=
    ⟨overhead, Decidable.not_not.mp header ▸ h0, hi, lo, h1, h2, rfl⟩
  split at h
  next wrong => cases h; exact .rejected (.length pre wrong)
  next length =>
  have length := Decidable.not_not.mp length
  split at h
  next small => cases h; exact .rejected (.keylenRange pre length small)
  next range =>
  obtain ⟨f, hf, h⟩ := withCell_next h
  split at h
  next wrong => cases h; exact .rejected (.finalizer pre length range hf wrong)
  next finalizer =>
  obtain ⟨jf, h3, h⟩ := withCell_next h
  obtain ⟨b2, h4, h⟩ := withCell_next h
  obtain ⟨b1, h5, h⟩ := withCell_next h
  obtain ⟨b0, h6, h⟩ := withCell_next h
  cases h
  exact .accepted ⟨pre, length, range, Decidable.not_not.mp finalizer ▸ hf⟩ ⟨h3, b2, b1, b0, h4, h5, h6, rfl⟩

/-- Everything KDEC does when it goes on, and when it does (spec/40_key_decode.md R80). -/
theorem execKdec_eq_next_iff {s t : State} : execKdec s = .next t ↔ KdecOutcome s t := by
  refine ⟨KdecOutcome.of_execKdec, fun h => ?_⟩
  cases h with
  | rejected checks => exact execKdec_of_rejects checks
  | accepted checks fields => exact execKdec_of_accepts checks fields

/-! ## The outcome of every check -/

/-- A reported check is the failure of spec/40_key_decode.md R82: the stored key fields stay as they were. -/
theorem kdecFailsWith_of_rejects {s : State} {sub : ErrSub} {exp act : Word}
    (checks : KdecRejects s.kbufLen s.kbuf sub exp act) : kdecFailsWith (errSubCode sub) exp act s :=
  ⟨s.klen, s.jfreq, s.jlen, execKdec_of_rejects checks⟩

/-- The decoded key, its fields given as numbers (spec/40_key_decode.md R81). -/
theorem decodedWith_toNat (kl : BitVec 16) (jf : Byte) (jl : BitVec 24) (s : State) :
    decodedWith kl.toNat jf.toNat jl.toNat s =
      complete { s with klen := kl, jfreq := jf, jlen := jl, kvalid := true } := by
  simp only [decodedWith, complete, BitVec.ofNat_toNat, BitVec.setWidth_eq]

/-- Settles O5: each clause is one constructor of `KdecRejects`, the last one `KdecAccepts`. -/
theorem kdecFollowsItsPseudocode : Obligations.KdecFollowsItsPseudocode := by
  unfold Obligations.KdecFollowsItsPseudocode
  intro s
  simp only [← be16_toNat, ← be24_toNat, BitVec.ofNat_toNat, decodedWith_toNat]
  refine ⟨fun short => kdecFailsWith_of_rejects (.truncated short),
    fun h overhead h0 wrong => kdecFailsWith_of_rejects (.header (Nat.not_lt.mpr overhead) h0 wrong), ?_⟩
  intro hi lo overhead h0 h1 h2
  have pre : KeyLenRead s.kbufLen s.kbuf (be16 hi lo) := ⟨Nat.not_lt.mpr overhead, h0, hi, lo, h1, h2, rfl⟩
  refine ⟨fun wrong => kdecFailsWith_of_rejects (.length pre wrong),
    fun length small => kdecFailsWith_of_rejects (.keylenRange pre length small), ?_⟩
  intro f length range hf
  have range := Nat.not_lt.mpr range
  refine ⟨fun wrong => kdecFailsWith_of_rejects (.finalizer pre length range hf wrong), ?_⟩
  rintro jf b2 b1 b0 rfl h3 h4 h5 h6
  exact execKdec_of_accepts ⟨pre, length, range, hf⟩ ⟨h3, b2, b1, b0, h4, h5, h6, rfl⟩

/-! ## When KDEC succeeds -/

/-- Where the length matches, the finalizer's cell is the last one of the candidate (spec/40_key_decode.md R84). -/
theorem blockAddr_eq_last {n : Word} {kl : BitVec 16} (length : n.toNat = Config.keyOverhead + kl.toNat) :
    blockAddr kl.toNat = n.toNat - 1 := by
  simp only [blockAddr, Config.blockOffset, Config.keyOverhead] at *
  omega

/-- The four conditions of spec/40_key_decode.md R85 on a candidate whose length bytes are `hi` and `lo`. -/
theorem kdecAccepts_be16_iff {n : Word} {m : Memory} {hi lo : Byte} (h1 : Memory.read m 1 = some hi)
    (h2 : Memory.read m 2 = some lo) :
    KdecAccepts n m (be16 hi lo) ↔
      12 ≤ n.toNat ∧ Memory.read m 0 = some 0xFF ∧ n.toNat = 8 + hi.toNat * 256 + lo.toNat ∧
        Memory.read m (n.toNat - 1) = some 0x00 := by
  constructor
  · rintro ⟨pre, length, range, finalizer⟩
    rw [blockAddr_eq_last length] at finalizer
    simp only [Config.keyOverhead, Config.klenMin, be16_toNat] at length range
    exact ⟨by omega, pre.header, by omega, finalizer⟩
  · rintro ⟨small, header, length, finalizer⟩
    have length : n.toNat = Config.keyOverhead + (be16 hi lo).toNat := by
      simp only [Config.keyOverhead, be16_toNat]
      omega
    rw [← blockAddr_eq_last length] at finalizer
    simp only [Config.keyOverhead] at length
    exact ⟨⟨by simp only [Config.keyOverhead]; omega, header, hi, lo, h1, h2, rfl⟩, length,
      by simp only [Config.klenMin]; omega, finalizer⟩

/-- The bytes at cells 1 and 2 are the `key_len` that KDEC accepts. -/
theorem KdecAccepts.klen_eq {n : Word} {m : Memory} {kl : BitVec 16} {hi lo : Byte} (h : KdecAccepts n m kl)
    (h1 : Memory.read m 1 = some hi) (h2 : Memory.read m 2 = some lo) : kl = be16 hi lo := by
  obtain ⟨hi', lo', h1', h2', rfl⟩ := h.pre.bytes
  cases h1.symm.trans h1'
  cases h2.symm.trans h2'
  rfl

/-- Written cells 3 to 6 hold jump fields, whatever their values. -/
theorem exists_jumpFieldsRead {m : Memory} (hw : writtenBelow m 7) : ∃ jf jl, JumpFieldsRead m jf jl := by
  obtain ⟨jf, h3⟩ := Option.isSome_iff_exists.mp (hw 3 (by decide))
  obtain ⟨b2, h4⟩ := Option.isSome_iff_exists.mp (hw 4 (by decide))
  obtain ⟨b1, h5⟩ := Option.isSome_iff_exists.mp (hw 5 (by decide))
  obtain ⟨b0, h6⟩ := Option.isSome_iff_exists.mp (hw 6 (by decide))
  exact ⟨jf, _, h3, b2, b1, b0, h4, h5, h6, rfl⟩

/-- Settles O7: OK is recorded exactly where all the checks pass. -/
theorem kdecSucceedsExactlyOnKeys : Obligations.KdecSucceedsExactlyOnKeys := by
  unfold Obligations.KdecSucceedsExactlyOnKeys
  intro s c hc _
  have h1 := hc 1 (by decide)
  have h2 := hc 2 (by decide)
  have accepts_iff := kdecAccepts_be16_iff (n := s.kbufLen) h1 h2
  rw [hc 0 (by decide), Option.some_inj] at accepts_iff
  rw [← accepts_iff]
  constructor
  · rintro ⟨t, ht, hok⟩
    cases execKdec_eq_next_iff.mp ht with
    | rejected _ => cases hok
    | accepted checks _ => exact checks.klen_eq h1 h2 ▸ checks
  · intro checks
    have written : writtenBelow s.kbuf 7 := fun a ha => by rw [hc a (Nat.le_of_lt_succ ha)]; rfl
    obtain ⟨jf, jl, fields⟩ := exists_jumpFieldsRead written
    exact ⟨_, execKdec_of_accepts checks fields, rfl⟩

/-! ## What KDEC depends on -/

/-- Settles O8: KDEC leaves KBUF and KBUF_LEN, on which alone its checks depend, and writes every register that it
writes with the same value again. -/
theorem kdecIsRepeatable : Obligations.KdecIsRepeatable := by
  unfold Obligations.KdecIsRepeatable
  intro s t h
  cases execKdec_eq_next_iff.mp h with
  | rejected checks => exact ⟨execKdec_of_rejects checks, rfl, rfl, rfl, rfl⟩
  | accepted checks fields => exact ⟨execKdec_of_accepts checks fields, rfl, rfl, rfl, rfl⟩

/-- `m'` agrees with `m` on the cells that the checks of KDEC read of a candidate of length `n`: cells 0 to 2 and the
last one (spec/40_key_decode.md R83, R84). -/
structure SameChecked (n : Word) (m m' : Memory) : Prop where
  first : ∀ a ≤ 2, Memory.read m' a = Memory.read m a
  last  : Memory.read m' (n.toNat - 1) = Memory.read m (n.toNat - 1)

theorem KeyLenRead.congr {n : Word} {m m' : Memory} {kl : BitVec 16} (same : SameChecked n m m')
    (h : KeyLenRead n m kl) : KeyLenRead n m' kl := by
  obtain ⟨overhead, header, hi, lo, h1, h2, hkl⟩ := h
  exact ⟨overhead, (same.first 0 (by decide)).trans header, hi, lo, (same.first 1 (by decide)).trans h1,
    (same.first 2 (by decide)).trans h2, hkl⟩

theorem SameChecked.read_finalizer {n : Word} {m m' : Memory} {kl : BitVec 16} (same : SameChecked n m m')
    (length : n.toNat = Config.keyOverhead + kl.toNat) :
    Memory.read m' (blockAddr kl.toNat) = Memory.read m (blockAddr kl.toNat) := by
  rw [blockAddr_eq_last length, same.last]

theorem KdecRejects.congr {n : Word} {m m' : Memory} {sub : ErrSub} {exp act : Word} (same : SameChecked n m m')
    (h : KdecRejects n m sub exp act) : KdecRejects n m' sub exp act := by
  cases h with
  | truncated short => exact .truncated short
  | header overhead cell wrong => exact .header overhead ((same.first 0 (by decide)).trans cell) wrong
  | length pre wrong => exact .length (pre.congr same) wrong
  | keylenRange pre length small => exact .keylenRange (pre.congr same) length small
  | finalizer pre length range cell wrong =>
    exact .finalizer (pre.congr same) length range ((same.read_finalizer length).trans cell) wrong

theorem KdecAccepts.congr {n : Word} {m m' : Memory} {kl : BitVec 16} (same : SameChecked n m m')
    (h : KdecAccepts n m kl) : KdecAccepts n m' kl :=
  ⟨h.pre.congr same, h.length, h.range, (same.read_finalizer h.length).trans h.finalizer⟩

theorem JumpFieldsRead.congr {m m' : Memory} {jf : Byte} {jl : BitVec 24}
    (same : ∀ a ≤ 6, Memory.read m' a = Memory.read m a) (h : JumpFieldsRead m jf jl) :
    JumpFieldsRead m' jf jl := by
  unfold JumpFieldsRead
  rwa [same 3 (by decide), same 4 (by decide), same 5 (by decide), same 6 (by decide)]

/-- Settles O9: the checks carry over to every KBUF that agrees on the checked cells; only the stored key fields come
from cells 3 to 6. -/
theorem kdecIgnoresKeyBlockAndData : Obligations.KdecIgnoresKeyBlockAndData := by
  unfold Obligations.KdecIgnoresKeyBlockAndData
  intro s t kb db n h last
  constructor
  · intro same
    have checked : SameChecked s.kbufLen s.kbuf kb := ⟨fun a ha => same a (ha.trans (by decide)), last⟩
    cases execKdec_eq_next_iff.mp h with
    | rejected checks => exact execKdec_of_rejects (checks.congr checked)
    | accepted checks fields => exact execKdec_of_accepts (checks.congr checked) (fields.congr same)
  · intro first written
    have checked : SameChecked s.kbufLen s.kbuf kb := ⟨first, last⟩
    cases execKdec_eq_next_iff.mp h with
    | rejected checks => exact ⟨_, execKdec_of_rejects (checks.congr checked), rfl⟩
    | accepted checks _ =>
      obtain ⟨jf, jl, fields⟩ := exists_jumpFieldsRead written
      exact ⟨_, execKdec_of_accepts (checks.congr checked) fields, rfl⟩

/-! ## Where KDEC reads -/

/-- A command's read of a KBUF cell faults at that cell, or the cell holds a value and what follows faults. -/
theorem withCell_kbuf_fault {a : Nat} {s : State} {k : Byte → Result} {r : Fault}
    (h : withCell .kbuf a s k = .fault r) : r = .noValue .kbuf a ∨ ∃ v, k v = .fault r := by
  unfold withCell at h
  split at h
  · exact .inr ⟨_, h⟩
  · cases h; exact .inl rfl

/-- The cells KDEC may read: 0 to 6, and the last cell of a candidate whose length matches its `key_len`; none before
the check TRUNCATED has passed (spec/40_key_decode.md R84). -/
def KdecMayRead (n : Word) (a : Nat) : Prop :=
  ¬ n.toNat < Config.keyOverhead ∧
    (a ≤ 6 ∨ ∃ kl : BitVec 16, n.toNat = Config.keyOverhead + kl.toNat ∧ a = blockAddr kl.toNat)

/-- KDEC faults only at a cell it may read. -/
theorem execKdec_fault {s : State} {r : Fault} (h : execKdec s = .fault r) :
    ∃ a, r = .noValue .kbuf a ∧ KdecMayRead s.kbufLen a := by
  unfold execKdec failKdec at h
  dsimp only at h
  split at h
  · cases h
  next overhead =>
  obtain rfl | ⟨_, h⟩ := withCell_kbuf_fault h
  · exact ⟨0, rfl, overhead, .inl (by decide)⟩
  split at h
  · cases h
  obtain rfl | ⟨hi, h⟩ := withCell_kbuf_fault h
  · exact ⟨1, rfl, overhead, .inl (by decide)⟩
  obtain rfl | ⟨lo, h⟩ := withCell_kbuf_fault h
  · exact ⟨2, rfl, overhead, .inl (by decide)⟩
  split at h
  · cases h
  next length =>
  split at h
  · cases h
  obtain rfl | ⟨_, h⟩ := withCell_kbuf_fault h
  · exact ⟨_, rfl, overhead, .inr ⟨be16 hi lo, Decidable.not_not.mp length, rfl⟩⟩
  split at h
  · cases h
  obtain rfl | ⟨_, h⟩ := withCell_kbuf_fault h
  · exact ⟨3, rfl, overhead, .inl (by decide)⟩
  obtain rfl | ⟨_, h⟩ := withCell_kbuf_fault h
  · exact ⟨4, rfl, overhead, .inl (by decide)⟩
  obtain rfl | ⟨_, h⟩ := withCell_kbuf_fault h
  · exact ⟨5, rfl, overhead, .inl (by decide)⟩
  obtain rfl | ⟨_, h⟩ := withCell_kbuf_fault h
  · exact ⟨6, rfl, overhead, .inl (by decide)⟩
  · cases h

/-- The cells KDEC may read exist, and lie inside the candidate. -/
theorem KdecMayRead.in_range {n : Word} {a : Nat} (h : KdecMayRead n a) :
    a ≤ 65542 ∧ 8 ≤ n.toNat ∧ (a ≤ 6 ∨ a + 1 = n.toNat) := by
  obtain ⟨overhead, field | ⟨kl, length, rfl⟩⟩ := h
  · exact ⟨field.trans (by decide), Nat.le_of_not_lt overhead, .inl field⟩
  · have := kl.isLt
    simp only [Config.keyOverhead, blockAddr, Config.blockOffset] at overhead length ⊢
    omega

/-- A candidate longer than KBUF passes no LENGTH check, since `key_len` has 16 bits (spec/40_key_decode.md R84). -/
theorem kdecRejects_beyond_buffer {n : Word} {m : Memory} (hn : 65543 < n.toNat) (hw : writtenBelow m 3) :
    ∃ sub exp act, KdecRejects n m sub exp act ∧ (sub = .length ∨ sub = .header) := by
  have overhead : ¬ n.toNat < Config.keyOverhead := by
    simp only [Config.keyOverhead]
    omega
  obtain ⟨h, h0⟩ := Option.isSome_iff_exists.mp (hw 0 (by decide))
  obtain ⟨hi, h1⟩ := Option.isSome_iff_exists.mp (hw 1 (by decide))
  obtain ⟨lo, h2⟩ := Option.isSome_iff_exists.mp (hw 2 (by decide))
  by_cases header : h = Config.header
  · subst header
    have wrong : n.toNat ≠ Config.keyOverhead + (be16 hi lo).toNat := by
      have := (be16 hi lo).isLt
      simp only [Config.keyOverhead]
      omega
    exact ⟨_, _, _, .length ⟨overhead, h0, hi, lo, h1, h2, rfl⟩ wrong, .inl rfl⟩
  · exact ⟨_, _, _, .header overhead h0 header, .inr rfl⟩

/-- Settles O10: a fault names a cell KDEC may read, and a length beyond the buffer is rejected before the last cell
is read. -/
theorem kdecReadsStayInRange : Obligations.KdecReadsStayInRange := by
  unfold Obligations.KdecReadsStayInRange
  intro s
  constructor
  · intro sp a h
    obtain ⟨_, hr, mayRead⟩ := execKdec_fault h
    cases hr
    exact ⟨rfl, mayRead.in_range⟩
  · intro hn hw
    obtain ⟨sub, exp, act, checks, rfl | rfl⟩ := kdecRejects_beyond_buffer hn hw
    · exact ⟨_, execKdec_of_rejects checks, rfl, .inl rfl⟩
    · exact ⟨_, execKdec_of_rejects checks, rfl, .inr rfl⟩

end Sys2Proof.Machine

/-!
PROOFS. The jump schedule (spec/41_jump_schedule.md R90 to R94).
-/

namespace Sys2Proof.Machine

/-! ## jump_interval -/

/-- The exact evaluation in numerals (spec/41_jump_schedule.md R90). -/
theorem jumpInterval_exact (n jf : Nat) : jumpInterval .exact n jf = max (jf * (n / 16) / 255) 2 := rfl

/-- Both evaluations clamp to at least 2. -/
theorem two_le_jumpInterval (ev : Config.JiEval) (n jf : Nat) : 2 ≤ jumpInterval ev n jf := by
  cases ev with
  | exact => exact le_max_right _ _
  | binary64 => exact le_max_right _ _

/-- JINT sees the data length only through its 16-byte blocks (spec/41_jump_schedule.md R91 (f)). -/
theorem jumpInterval_congr {m n : Nat} (ev : Config.JiEval) (jf : Nat) (h : m / 16 = n / 16) :
    jumpInterval ev m jf = jumpInterval ev n jf := by
  cases ev with
  | exact => rw [jumpInterval_exact, jumpInterval_exact, h]
  | binary64 =>
    change jumpIntervalBinary64 m jf = jumpIntervalBinary64 n jf
    simp only [jumpIntervalBinary64, Config.jiBlock, h]

/-- spec/41_jump_schedule.md R91 (g), in both arguments at once. -/
theorem jumpInterval_exact_mono {n m jf jf' : Nat} (hn : n ≤ m) (hjf : jf ≤ jf') :
    jumpInterval .exact n jf ≤ jumpInterval .exact m jf' :=
  max_le_max_right 2 (Nat.div_le_div_right (Nat.mul_le_mul hjf (Nat.div_le_div_right hn)))

theorem jumpInterval_exact_zero (n : Nat) : jumpInterval .exact n 0 = 2 := by
  rw [jumpInterval_exact, Nat.zero_mul, Nat.zero_div, Nat.zero_max]

theorem jumpInterval_exact_255 (n : Nat) : jumpInterval .exact n 255 = max (n / 16) 2 := by
  rw [jumpInterval_exact, Nat.mul_div_cancel_left _ (by decide)]

/-- By monotonicity in `jf`, JINT is at most its value at 255. -/
theorem jumpInterval_exact_le {n jf : Nat} (hjf : jf ≤ 255) : jumpInterval .exact n jf ≤ max 2 (n / 16) :=
  calc jumpInterval .exact n jf
    _ ≤ jumpInterval .exact n 255 := jumpInterval_exact_mono le_rfl hjf
    _ = max 2 (n / 16) := by rw [jumpInterval_exact_255, max_comm]

/-- Below three blocks the upper bound meets the clamp (spec/41_jump_schedule.md R91 (b)). -/
theorem jumpInterval_exact_of_lt_48 {n jf : Nat} (hjf : jf ≤ 255) (hn : n < 48) :
    jumpInterval .exact n jf = 2 := by
  have bound : max 2 (n / 16) = 2 := max_eq_left (by omega)
  exact le_antisymm ((jumpInterval_exact_le hjf).trans_eq bound) (two_le_jumpInterval ..)

/-- At three blocks only the largest `jf` leaves the clamp (spec/41_jump_schedule.md R91 (b)). -/
theorem jumpInterval_exact_of_three_blocks {n jf : Nat} (hjf : jf ≤ 255) (hn : n / 16 = 3) :
    jumpInterval .exact n jf = if jf = 255 then 3 else 2 := by
  split
  next top => rw [top, jumpInterval_exact_255, hn]; rfl
  next below =>
    have small : jf * 3 / 255 ≤ 2 := by omega
    rw [jumpInterval_exact, hn, max_eq_right small]

/-- Settles O12: every clause from the formula, the clamp, and monotonicity with the value at `jf = 255`. -/
theorem jumpIntervalRange : Obligations.JumpIntervalRange := by
  unfold Obligations.JumpIntervalRange
  intro n jf hjf
  refine ⟨jumpInterval_exact n jf, two_le_jumpInterval .., jumpInterval_exact_le hjf,
    jumpInterval_exact_of_lt_48 hjf, ?threeBlocks, ?jfZero, ?jfTop, ?sameBlocks, ?monoN, ?monoJf⟩
  case threeBlocks => exact fun lo hi => jumpInterval_exact_of_three_blocks hjf (by omega)
  case jfZero => rintro rfl; exact jumpInterval_exact_zero n
  case jfTop => rintro rfl; exact jumpInterval_exact_255 n
  case sameBlocks => exact fun m same => jumpInterval_congr .exact jf same
  case monoN => exact fun m hm => jumpInterval_exact_mono hm le_rfl
  case monoJf => exact fun jf' h _ => jumpInterval_exact_mono le_rfl h

/-! ## jump_distance -/

theorem le_jumpDistance (jl l : Nat) : l ≤ jumpDistance jl l := Nat.le_add_left l (jl / l)

/-- JDIST grows with the jump length. -/
theorem jumpDistance_mono {jl jl' : Nat} (h : jl ≤ jl') (l : Nat) : jumpDistance jl l ≤ jumpDistance jl' l :=
  Nat.add_le_add_right (Nat.div_le_div_right h) l

/-- The largest distance is at the shortest key: from length 5 on the quotient falls by more than the length can
make up (spec/41_jump_schedule.md R94 (a)). -/
theorem jumpDistance_le {jl l : Nat} (hjl : jl ≤ 16777215) (hmin : 4 ≤ l) (hmax : l ≤ 65535) :
    jumpDistance jl l ≤ 4194307 := by
  obtain rfl | longer := hmin.eq_or_lt
  · exact jumpDistance_mono hjl 4
  · have quotient : jl / l ≤ 16777215 / 5 := Nat.div_le_div hjl longer (by decide)
    rw [jumpDistance]
    omega

/-- The key length in JDIST is a full turn of the cursor, with no effect on it (spec/41_jump_schedule.md R94 (b)). -/
theorem add_jumpDistance_mod (x jl l : Nat) : (x + jumpDistance jl l) % l = (x + jl / l) % l := by
  rw [jumpDistance, ← Nat.add_assoc, Nat.add_mod_right]

theorem jumpDistance_of_lt {jl l : Nat} (h : jl < l) : jumpDistance jl l = l := by
  rw [jumpDistance, Nat.div_eq_of_lt h, Nat.zero_add]

/-- Settles O14: both maxima are values of the function at the largest jump length, and the rest are its rules. -/
theorem jumpDistanceRange : Obligations.JumpDistanceRange := by
  unfold Obligations.JumpDistanceRange
  intro jl l hjl hmin hmax
  refine ⟨rfl, le_jumpDistance jl l, jumpDistance_le hjl hmin hmax, ?longestKey, by decide, by decide,
    fun x => add_jumpDistance_mod x jl l, jumpDistance_of_lt⟩
  case longestKey => rintro rfl; exact jumpDistance_mono hjl 65535

end Sys2Proof.Machine

/-!
PROOFS. ENC and DEC, the transform (spec/42_transform.md R100 to R110): its two refusals, the empty transform, one byte
step, and the two directions undoing each other.
-/

namespace Sys2Proof.Machine

/-! ## The two checks -/

/-- ENC is the transform with direction Encrypt (spec/42_transform.md R100). -/
theorem exec_enc_eq_transform (s : State) : exec .enc s = transform .encrypt s := rfl

/-- DEC is the transform with direction Decrypt (spec/42_transform.md R100). -/
theorem exec_dec_eq_transform (s : State) : exec .dec s = transform .decrypt s := rfl

/-- Raising an error leaves KVALID as it is and writes the record in the numbers the host reads. -/
theorem raiseError_eq_failedWith (kind : ErrKind) (sub : ErrSub) (exp act : Word) (s : State) :
    raiseError kind sub exp act s = failedWith s.kvalid (errKindCode kind) (errSubCode sub) exp act s := rfl

/-- spec/42_transform.md R101, in either direction. -/
theorem transform_of_noKey {s : State} (noKey : s.kvalid = false) (dir : Direction) :
    transform dir s = .next (failedWith false 2 6 0 0 s) := by
  rw [transform, if_pos noKey, raiseError_eq_failedWith, noKey]
  rfl

/-- spec/42_transform.md R102, in either direction. -/
theorem transform_of_beyondCapacity {s : State} (key : s.kvalid = true)
    (beyond : s.cfg.dmax.toNat < s.dlen.toNat) (dir : Direction) :
    transform dir s = .next (failedWith true 1 8 s.cfg.dmax s.dlen s) := by
  rw [transform, if_neg (by simp [key]), dataLen, if_pos beyond, raiseError_eq_failedWith, key]
  rfl

/-- Past its two checks a transform is its byte steps. -/
theorem transform_of_passed {s : State} (key : s.kvalid = true) (fits : s.dlen.toNat ≤ s.cfg.dmax.toNat)
    (dir : Direction) :
    transform dir s = finishTransform (runByteSteps dir (10 * s.dlen.toNat) (startTransform s)) := by
  rw [transform, if_neg (by simp [key]), dataLen, if_neg (Nat.not_lt.mpr fits)]
  rfl

/-- A transform past its two checks goes on only by completing after its byte steps. -/
theorem transform_next_of_passed {s t : State} {dir : Direction} (key : s.kvalid = true)
    (fits : s.dlen.toNat ≤ s.cfg.dmax.toNat) (h : transform dir s = .next t) :
    ∃ u, runByteSteps dir (10 * s.dlen.toNat) (startTransform s) = .next u ∧ t = complete u := by
  obtain ⟨noKey, -⟩ | ⟨-, beyond, -⟩ | ⟨-, -, ran⟩ := transform_next h
  · simp [key] at noKey
  · omega
  · exact ran

/-- Settles O15: the first check, in both directions. -/
theorem transformWithoutKeyFails : Obligations.TransformWithoutKeyFails := by
  unfold Obligations.TransformWithoutKeyFails
  simp only [exec_enc_eq_transform, exec_dec_eq_transform]
  exact fun _ noKey => ⟨transform_of_noKey noKey .encrypt, transform_of_noKey noKey .decrypt⟩

/-- Settles O16: the second check fails beyond the capacity; within it the only next state is a completed one. -/
theorem transformBeyondCapacityFails : Obligations.TransformBeyondCapacityFails := by
  unfold Obligations.TransformBeyondCapacityFails
  simp only [exec_enc_eq_transform, exec_dec_eq_transform]
  intro s key
  refine ⟨fun beyond => ⟨transform_of_beyondCapacity key beyond .encrypt,
    transform_of_beyondCapacity key beyond .decrypt⟩, fun fits t h => ?_⟩
  have completed (dir : Direction) (h : transform dir s = .next t) : t.err = false := by
    obtain ⟨u, -, rfl⟩ := transform_next_of_passed key fits h
    exact complete_err u
  exact h.elim (completed .encrypt) (completed .decrypt)

/-! ## The key side -/

theorem SameKeySide.trans {s t u : State} (h : SameKeySide s t) (h' : SameKeySide t u) : SameKeySide s u where
  cfg     := h'.cfg.trans h.cfg
  kvalid  := h'.kvalid.trans h.kvalid
  kbufLen := h'.kbufLen.trans h.kbufLen
  dlen    := h'.dlen.trans h.dlen
  klen    := h'.klen.trans h.klen
  jfreq   := h'.jfreq.trans h.jfreq
  jlen    := h'.jlen.trans h.jlen
  kbuf    := h'.kbuf.trans h.kbuf
  host    := h'.host.trans h.host

/-- The start of a transform writes internal registers only (spec/42_transform.md R100). -/
theorem sameKeySide_startTransform (s : State) : SameKeySide s (startTransform s) :=
  ⟨rfl, rfl, rfl, rfl, rfl, rfl, rfl, rfl, rfl⟩

/-- Completing a command writes the result registers only (spec/60_exceptions.md R154). -/
theorem sameKeySide_complete (s : State) : SameKeySide s (complete s) :=
  ⟨rfl, rfl, rfl, rfl, rfl, rfl, rfl, rfl, rfl⟩

theorem recordsSuccess_complete (s : State) : RecordsSuccess (complete s) := ⟨rfl, rfl, rfl, rfl, rfl, rfl⟩

theorem sameKeySide_applyByte (dir : Direction) (k d : Byte) (s : State) : SameKeySide s (applyByte dir k d s) := by
  constructor <;> simp only [applyByte_fields]

theorem sameKeySide_advance (s : State) : SameKeySide s (advance s) := by
  constructor <;> simp only [advance_fields]

/-! ## The empty transform -/

/-- No data is no whole block, and both evaluations then give the clamp (spec/42_transform.md R109). -/
theorem jumpInterval_zero_length (ev : Config.JiEval) (jf : Nat) : jumpInterval ev 0 jf = 2 := by
  cases ev with
  | exact => simp [jumpInterval_exact]
  | binary64 => simp [jumpInterval, jumpIntervalBinary64, fl, Config.jiMin]

/-- Without data a transform runs no byte step. -/
theorem transform_of_empty {s : State} (key : s.kvalid = true) (empty : s.dlen = 0) (dir : Direction) :
    transform dir s = .next (complete (startTransform s)) := by
  rw [transform_of_passed key (by simp [empty]), empty]
  rfl

/-- Settles O17: no byte step runs between the start and the completion, and neither writes DBUF or the key side. -/
theorem emptyTransformCompletes : Obligations.EmptyTransformCompletes := by
  unfold Obligations.EmptyTransformCompletes
  simp only [exec_enc_eq_transform, exec_dec_eq_transform]
  intro s empty
  have jint : jumpInterval s.cfg.jiEval (dataLen s) s.jfreq.toNat = 2 := by
    simp [dataLen, empty, jumpInterval_zero_length]
  have keySide := (sameKeySide_startTransform s).trans (sameKeySide_complete _)
  refine ⟨fun key => ⟨jint, rfl, rfl, jint, rfl, ?enc, ?dec⟩,
    fun noKey => ⟨transform_of_noKey noKey .encrypt, transform_of_noKey noKey .decrypt⟩⟩
  case enc => exact ⟨_, transform_of_empty key empty .encrypt, rfl, keySide, recordsSuccess_complete _⟩
  case dec => exact ⟨_, transform_of_empty key empty .decrypt, rfl, keySide, recordsSuccess_complete _⟩

/-! ## One byte step -/

/-- A byte step writes no result register (spec/42_transform.md R103). -/
theorem applyByte_record (dir : Direction) (k d : Byte) (s : State) :
    (applyByte dir k d s).ok = s.ok ∧ (applyByte dir k d s).err = s.err ∧
    (applyByte dir k d s).errcode = s.errcode ∧ (applyByte dir k d s).errsub = s.errsub ∧
    (applyByte dir k d s).errexp = s.errexp ∧ (applyByte dir k d s).erract = s.erract := by
  unfold applyByte wrapCursor jumpIfDue
  split <;> split <;> simp

/-- DBUF after a byte step: the cell at IDX holds the mixed byte, the others are as before. -/
theorem read_dbuf_applyByte (dir : Direction) (k d : Byte) (s : State) (a : Nat) :
    Memory.read (applyByte dir k d s).dbuf a =
      if a = s.idx then some (mixByte dir s.pol d k) else Memory.read s.dbuf a := by
  simp only [applyByte_fields, Memory.read_write]

/-- Polarity 0 adds when encrypting and subtracts when decrypting, polarity 1 the other way round
(spec/42_transform.md R104). -/
theorem mixByte_eq (dir : Direction) (pol : Bool) (d k : Byte) :
    mixByte dir pol d k = if (dir = .encrypt ↔ pol = false) then d + k else d - k := by
  cases dir <;> cases pol <;> simp [mixByte, adds, dirBit]

/-- The bounds that a byte step re-establishes: the cursor inside the key block, the counter inside the interval
(spec/42_transform.md R103). -/
theorem applyByte_bounds (dir : Direction) (k d : Byte) {s : State} (hpos : s.pos < s.klen.toNat) (hmin : 1 ≤ s.cnt)
    (hmax : s.cnt ≤ s.jint) :
    (applyByte dir k d s).pos < s.klen.toNat ∧ 1 ≤ (applyByte dir k d s).cnt ∧
      (applyByte dir k d s).cnt ≤ s.jint := by
  obtain ⟨pos, cnt, -⟩ := applyByte_schedule dir k d s
  refine ⟨pos ▸ Nat.mod_lt _ (by omega), ?_, ?_⟩ <;> rw [cnt] <;> split <;> omega

/-- Settles O18: the step goes on because its two cells hold values, and each clause is a rule of `applyByte`. -/
theorem byteStepFollowsItsPseudocode : Obligations.ByteStepFollowsItsPseudocode := by
  unfold Obligations.ByteStepFollowsItsPseudocode
  intro dir s k d hpos hmin hmax hk hd
  obtain ⟨pos, cnt, pol⟩ := applyByte_schedule dir k d s
  obtain ⟨posBound, cntMin, cntMax⟩ := applyByte_bounds dir k d hpos hmin hmax
  have keySide := sameKeySide_applyByte dir k d s
  have jumps : s.cnt - 1 = 0 ↔ s.cnt = 1 := by omega
  simp only [jumps] at pos cnt pol
  obtain ⟨-, -, -, -, -, -, -, -, jint, jdist, pass, idx, -, -⟩ := applyByte_fields dir k d s
  refine ⟨applyByte dir k d s, byteStep_some hk hd, fun a => ?data, pol, cnt, ?cursor, ?inBlock, cntMin, ?inInterval,
    jint, jdist, pass, idx, keySide, applyByte_record dir k d s⟩
  case data => rw [read_dbuf_applyByte, mixByte_eq]
  case cursor => rw [pos]; split <;> rfl
  case inBlock => rwa [keySide.klen]
  case inInterval => rwa [jint]

/-! ## What every byte step of a run keeps -/

/-- A property that each byte step keeps, PASS and IDX advancing after it, holds at the end of a run. -/
theorem runByteSteps_induction {dir : Direction} {I : State → Prop}
    (step : ∀ {u v}, byteStep dir u = .next v → I u → I (advance v)) {n : Nat} {s t : State}
    (h : runByteSteps dir n s = .next t) (start : I s) : I t := by
  induction n generalizing s with
  | zero => cases h; exact start
  | succ n ih =>
    obtain ⟨u, hu, h⟩ := runByteSteps_succ_next h
    exact ih h (step hu start)

/-- A run of byte steps leaves the key side as it is. -/
theorem sameKeySide_runByteSteps {dir : Direction} {n : Nat} {s t : State}
    (h : runByteSteps dir n s = .next t) : SameKeySide s t := by
  refine runByteSteps_induction (I := SameKeySide s) (fun hstep keySide => ?_) h
    ⟨rfl, rfl, rfl, rfl, rfl, rfl, rfl, rfl, rfl⟩
  obtain ⟨k, d, -, -, rfl⟩ := byteStep_next hstep
  exact (keySide.trans (sameKeySide_applyByte dir k d _)).trans (sameKeySide_advance _)

/-- A run of byte steps neither gives a first value to a data cell nor takes one away. -/
theorem isSome_read_runByteSteps {dir : Direction} {n : Nat} {s t : State}
    (h : runByteSteps dir n s = .next t) (a : Nat) :
    (Memory.read t.dbuf a).isSome = (Memory.read s.dbuf a).isSome := by
  refine runByteSteps_induction (I := fun u => (Memory.read u.dbuf a).isSome = (Memory.read s.dbuf a).isSome)
    (fun hstep same => ?_) h rfl
  obtain ⟨k, d, -, hd, rfl⟩ := byteStep_next hstep
  rw [← same]
  simp only [advance_fields, read_dbuf_applyByte]
  split
  next atIdx => rw [atIdx, ← dataAddr, hd]; rfl
  next => rfl

/-! ## Two runs in lockstep

The cells that byte steps read, and the state they go on in, depend on neither the direction nor the data: two runs
that begin alike in all but the data stay alike. -/

/-- `s'` agrees with `s` on all that decides which cells the byte steps from here on read: KBUF, KLEN, DLEN, the
cipher state and the loop counters (spec/42_transform.md R115). -/
structure SameCourse (s s' : State) : Prop where
  kbuf  : s'.kbuf = s.kbuf
  klen  : s'.klen = s.klen
  dlen  : s'.dlen = s.dlen
  pos   : s'.pos = s.pos
  cnt   : s'.cnt = s.cnt
  pol   : s'.pol = s.pol
  jint  : s'.jint = s.jint
  jdist : s'.jdist = s.jdist
  pass  : s'.pass = s.pass
  idx   : s'.idx = s.idx

/-- Transforms of the same key and the same data length start alike (spec/42_transform.md R111). -/
theorem sameCourse_startTransform {s s' : State} (h : SameKeySide s s') :
    SameCourse (startTransform s) (startTransform s') := by
  constructor <;> simp only [startTransform, dataLen, keyLen, h.cfg, h.dlen, h.klen, h.jfreq, h.jlen, h.kbuf]

/-- The course after a byte step depends on neither the direction nor the two bytes. -/
theorem SameCourse.applyByte {s s' : State} (h : SameCourse s s') (dir dir' : Direction) (k k' d d' : Byte) :
    SameCourse (applyByte dir k d s) (applyByte dir' k' d' s') := by
  constructor <;> simp only [applyByte_fields, applyByte_schedule, h.kbuf, h.klen, h.dlen, h.pos, h.cnt, h.pol,
    h.jint, h.jdist, h.pass, h.idx]

/-- Where IDX and PASS advance to (spec/10_state.md R24). -/
theorem advance_counters (s : State) :
    (advance s).idx = (if s.idx + 1 < s.dlen.toNat then s.idx + 1 else if s.pass + 1 < 10 then 0 else s.idx) ∧
    (advance s).pass =
      (if s.idx + 1 < s.dlen.toNat then s.pass else if s.pass + 1 < 10 then s.pass + 1 else s.pass) := by
  unfold advance dataLen Config.rounds
  split
  · exact ⟨rfl, rfl⟩
  · split <;> exact ⟨rfl, rfl⟩

theorem SameCourse.advance {s s' : State} (h : SameCourse s s') : SameCourse (advance s) (advance s') := by
  constructor <;> simp only [advance_fields, advance_counters, h.kbuf, h.klen, h.dlen, h.pos, h.cnt, h.pol,
    h.jint, h.jdist, h.pass, h.idx]

/-! ## Opposite directions undo each other

What one direction adds to a cell the other subtracts, so along two runs in lockstep, one in each direction, the sum of
the two bytes of a cell never changes. The second run starts from what the first one ends in, so it ends in what the
first one started from. -/

/-- In every cell `a` either neither memory holds a value, or the two bytes sum to `total a`. -/
def SumTo (total : Nat → Byte) (m m' : Memory) : Prop :=
  ∀ a, Memory.read m' a = (Memory.read m a).map (total a - ·)

theorem SumTo.write {total : Nat → Byte} {m m' : Memory} (h : SumTo total m m') (a : Nat) (v : Byte) :
    SumTo total (Memory.write m a v) (Memory.write m' a (total a - v)) := by
  intro b
  rw [Memory.read_write, Memory.read_write]
  split
  next same => rw [same]; rfl
  next => exact h b

/-- Two memories with values in the same cells sum to the sums of their bytes. -/
theorem sumTo_of_isSome_eq {m m' : Memory} (h : ∀ a, (Memory.read m' a).isSome = (Memory.read m a).isSome) :
    SumTo (fun a => (Memory.read m a).getD 0 + (Memory.read m' a).getD 0) m m' := by
  intro a
  cases hm : Memory.read m a with
  | none => simpa [hm] using h a
  | some x =>
    obtain ⟨y, hy⟩ := Option.isSome_iff_exists.mp ((h a).trans (by rw [hm]; rfl))
    simp only [hm, hy, Option.getD_some, Option.map_some, add_sub_cancel_left]

/-- A memory is determined, cell by cell, by the totals and the memory it sums to them with. -/
theorem SumTo.read_unique {total : Nat → Byte} {m m' m'' : Memory} (h : SumTo total m m') (h' : SumTo total m' m'')
    (a : Nat) : Memory.read m'' a = Memory.read m a := by
  simp only [h' a, h a, Option.map_map, Function.comp_def, sub_sub_cancel, Option.map_id']

theorem dirBit_opposite {dir dir' : Direction} (opposite : dir' ≠ dir) : dirBit dir' = !dirBit dir := by
  cases dir with
  | encrypt => cases dir' with
    | encrypt => exact absurd rfl opposite
    | decrypt => rfl
  | decrypt => cases dir' with
    | encrypt => rfl
    | decrypt => exact absurd rfl opposite

/-- Where one direction adds, the other subtracts (spec/42_transform.md R104). -/
theorem adds_opposite {dir dir' : Direction} (opposite : dir' ≠ dir) (pol : Bool) :
    adds dir' pol = !adds dir pol := by
  rw [adds, adds, dirBit_opposite opposite]
  cases dirBit dir <;> cases pol <;> rfl

/-- The opposite direction moves the other byte of a sum by as much the other way. -/
theorem mixByte_opposite {dir dir' : Direction} (opposite : dir' ≠ dir) (pol : Bool) (c d k : Byte) :
    mixByte dir' pol (c - d) k = c - mixByte dir pol d k := by
  simp only [mixByte, adds_opposite opposite]
  cases adds dir pol with
  | true => exact sub_sub c d k
  | false => exact sub_add c d k

/-- Two runs of byte steps in opposite directions, in lockstep: the second goes on with the first, and the two data
bytes of every cell keep their sum. -/
theorem runByteSteps_opposite {dir dir' : Direction} (opposite : dir' ≠ dir) {total : Nat → Byte} {n : Nat}
    {s s' t : State} (course : SameCourse s s') (sums : SumTo total s.dbuf s'.dbuf)
    (h : runByteSteps dir n s = .next t) :
    ∃ t', runByteSteps dir' n s' = .next t' ∧ SumTo total t.dbuf t'.dbuf := by
  induction n generalizing s s' with
  | zero => cases h; exact ⟨s', rfl, sums⟩
  | succ n ih =>
    obtain ⟨u, hstep, h⟩ := runByteSteps_succ_next h
    obtain ⟨k, d, hk, hd, rfl⟩ := byteStep_next hstep
    have hk' : Memory.read s'.kbuf (keyByteAddr s') = some k := by
      rwa [course.kbuf, keyByteAddr, course.pos]
    have hd' : Memory.read s'.dbuf (dataAddr s') = some (total s.idx - d) := by
      rw [dataAddr, course.idx, sums, ← dataAddr, hd]
      rfl
    have sums' : SumTo total (advance (applyByte dir k d s)).dbuf
        (advance (applyByte dir' k (total s.idx - d) s')).dbuf := by
      simp only [advance_fields, applyByte_fields, course.idx, course.pol, mixByte_opposite opposite]
      exact sums.write _ _
    simp only [runByteSteps, byteStep_some hk' hd']
    exact ih (course.applyByte ..).advance sums' h

/-- A transform in the opposite direction undoes a transform (spec/42_transform.md R108). -/
theorem transform_opposite {dir dir' : Direction} (opposite : dir' ≠ dir) {s t : State} (ready : TransformReady s)
    (h : transform dir s = .next t) :
    ∃ u, transform dir' t = .next u ∧ (∀ a, Memory.read u.dbuf a = Memory.read s.dbuf a) ∧ SameKeySide s u := by
  obtain ⟨v, run, rfl⟩ := transform_next_of_passed ready.key ready.dlen h
  have keySide : SameKeySide s (complete v) :=
    ((sameKeySide_startTransform s).trans (sameKeySide_runByteSteps run)).trans (sameKeySide_complete v)
  have sums := sumTo_of_isSome_eq (isSome_read_runByteSteps run)
  obtain ⟨w, run', sums'⟩ := runByteSteps_opposite opposite (sameCourse_startTransform keySide) sums run
  have ends : transform dir' (complete v) = .next (complete w) := by
    rw [transform_of_passed (keySide.kvalid.trans ready.key) (by rw [keySide.dlen, keySide.cfg]; exact ready.dlen),
      keySide.dlen, run']
    rfl
  refine ⟨complete w, ends, sums.read_unique sums', ?_⟩
  exact ((keySide.trans (sameKeySide_startTransform _)).trans (sameKeySide_runByteSteps run')).trans
    (sameKeySide_complete w)

/-- Settles O22: ENC and DEC are transforms in opposite directions. -/
theorem encAndDecUndoEachOther : Obligations.EncAndDecUndoEachOther := by
  unfold Obligations.EncAndDecUndoEachOther
  simp only [exec_enc_eq_transform, exec_dec_eq_transform]
  exact fun _ _ ready => ⟨transform_opposite (by decide) ready, transform_opposite (by decide) ready⟩

end Sys2Proof.Machine

/-!
PROOFS. The error record (spec/60_exceptions.md R151 to R154): a CMD write that goes on completes a command and clears
the record, or a check fails (`CommandRejects`) and the record is its row of the error table.
-/

namespace Sys2Proof.Machine

/-- Why a CMD write of `w` in `s` fails, with the values reported: the condition column of spec/60_exceptions.md
R151. -/
inductive CommandRejects (w : Word) (s : State) : ErrSub → Word → Word → Prop where
  | kdec {sub : ErrSub} {exp act : Word} (word : w = 1) (checks : KdecRejects s.kbufLen s.kbuf sub exp act) :
      CommandRejects w s sub exp act
  | nokey (word : w = 2 ∨ w = 3) (noKey : s.kvalid = false) : CommandRejects w s .nokey 0 0
  | dlenRange (word : w = 2 ∨ w = 3) (beyond : s.cfg.dmax.toNat < s.dlen.toNat) :
      CommandRejects w s .dlenRange s.cfg.dmax s.dlen
  | badcmd (word : ∀ i, w ≠ encode i) : CommandRejects w s .badcmd 0 w

/-- The record a CMD write of `w` in `s` leaves in `t`. -/
inductive CommandRecord (w : Word) (s t : State) : Prop where
  | completed (word : w = 1 ∨ w = 2 ∨ w = 3) (record : RecordsSuccess t)
  | rejected {sub : ErrSub} {exp act : Word} (condition : CommandRejects w s sub exp act)
      (record : RecordsError (errKindCode (errSubKind sub)) (errSubCode sub) exp act t)

/-- What `raise Error` records (spec/60_exceptions.md R153). -/
theorem recordsError_raiseError (kind : ErrKind) (sub : ErrSub) (exp act : Word) (s : State) :
    RecordsError (errKindCode kind) (errSubCode sub) exp act (raiseError kind sub exp act s) :=
  ⟨rfl, rfl, rfl, rfl, rfl, rfl⟩

/-- Every check of KDEC is InvalidFormat (spec/40_key_decode.md R82). -/
theorem KdecRejects.errSubKind_eq {n : Word} {m : Memory} {sub : ErrSub} {exp act : Word}
    (h : KdecRejects n m sub exp act) : errSubKind sub = .invalidFormat := by
  cases h <;> rfl

theorem execKdec_next_record {s t : State} (h : execKdec s = .next t) : CommandRecord 1 s t := by
  cases execKdec_eq_next_iff.mp h with
  | rejected checks =>
    refine .rejected (.kdec rfl checks) ?_
    rw [checks.errSubKind_eq]
    exact recordsError_raiseError ..
  | accepted _ _ => exact .completed (.inl rfl) (recordsSuccess_complete _)

theorem transform_next_record {w : Word} {dir : Direction} {s t : State} (word : w = 2 ∨ w = 3)
    (h : transform dir s = .next t) : CommandRecord w s t := by
  obtain ⟨noKey, rfl⟩ | ⟨-, beyond, rfl⟩ | ⟨-, -, u, -, rfl⟩ := transform_next h
  · exact .rejected (.nokey word noKey) (recordsError_raiseError ..)
  · exact .rejected (.dlenRange word beyond) (recordsError_raiseError ..)
  · exact .completed (.inr word) (recordsSuccess_complete u)

/-- A word that does not decode is no command's word (spec/30_encoding.md R65). -/
theorem ne_encode_of_decode_error {w : Word} {e : DecodeError} (h : decode w = .error e) (i : Instr) :
    w ≠ encode i := by
  rintro rfl
  cases i <;> cases h

/-- A CMD write that goes on leaves the record of the command its word encodes, or BADCMD. -/
theorem issueCommand_next_record {w : Word} {s t : State} (h : issueCommand w s = .next t) :
    CommandRecord w s t := by
  obtain ⟨i, hi, run⟩ | ⟨e, he, illegal⟩ := issueCommand_cases w s
  · obtain rfl := eq_encode_of_decode_ok hi
    rw [run] at h
    cases i with
    | kdec => exact execKdec_next_record h
    | enc => exact transform_next_record (.inl rfl) h
    | dec => exact transform_next_record (.inr rfl) h
  · cases illegal.symm.trans h
    exact .rejected (.badcmd (ne_encode_of_decode_error he)) (recordsError_raiseError ..)

/-- Settles O32: each constructor of `CommandRejects`, and of `KdecRejects` within KDEC, is one row of the table. -/
theorem commandRecordsOneTableRow : Obligations.CommandRecordsOneTableRow := by
  unfold Obligations.CommandRecordsOneTableRow
  intro w s t h
  simp only [← be16_toNat, BitVec.ofNat_toNat]
  cases issueCommand_next_record h with
  | completed word record => exact .inl ⟨word, record⟩
  | rejected condition record =>
  right
  cases condition with
  | kdec word checks =>
    cases checks with
    | truncated short => exact .inl ⟨word, short, record⟩
    | header _ cell wrong => exact .inr (.inl ⟨_, word, cell, wrong, record⟩)
    | length pre wrong =>
      obtain ⟨hi, lo, h1, h2, rfl⟩ := pre.bytes
      exact .inr (.inr (.inl ⟨hi, lo, word, h1, h2, .inl ⟨wrong, record⟩⟩))
    | keylenRange pre _ small =>
      obtain ⟨hi, lo, h1, h2, rfl⟩ := pre.bytes
      exact .inr (.inr (.inl ⟨hi, lo, word, h1, h2, .inr (.inl ⟨small, record⟩)⟩))
    | finalizer pre _ _ cell wrong =>
      obtain ⟨hi, lo, h1, h2, rfl⟩ := pre.bytes
      exact .inr (.inr (.inl ⟨hi, lo, word, h1, h2, .inr (.inr ⟨_, cell, wrong, record⟩)⟩))
  | nokey word noKey => exact .inr (.inr (.inr (.inl ⟨word, noKey, record⟩)))
  | dlenRange word beyond => exact .inr (.inr (.inr (.inr (.inl ⟨word, beyond, record⟩))))
  | badcmd word => exact .inr (.inr (.inr (.inr (.inr ⟨word .kdec, word .enc, word .dec, record⟩))))

end Sys2Proof.Machine

/-!
PROOFS. The schedule at every global step (spec/42_transform.md R106, R107): the byte steps of a transform follow the
closed form of the cursor, the polarity and the counter, and PASS and IDX count the steps.
-/

namespace Sys2Proof.Machine

/-! ## Runs of byte steps -/

/-- A run of `m + n` byte steps is a run of `m` and then one of `n`. -/
theorem runByteSteps_add_next {dir : Direction} {m n : Nat} {s t : State} :
    runByteSteps dir (m + n) s = .next t ↔
      ∃ u, runByteSteps dir m s = .next u ∧ runByteSteps dir n u = .next t := by
  induction m generalizing s with
  | zero => simp [runByteSteps]
  | succ m ih =>
    rw [Nat.succ_add]
    constructor
    · intro h
      obtain ⟨u, hu, h⟩ := runByteSteps_succ_next h
      obtain ⟨v, hv, h⟩ := ih.mp h
      exact ⟨v, by simpa [runByteSteps, hu] using hv, h⟩
    · rintro ⟨v, hv, h⟩
      obtain ⟨u, hu, hv⟩ := runByteSteps_succ_next hv
      simpa [runByteSteps, hu] using ih.mpr ⟨v, hv, h⟩

/-- Every byte step of a run that goes on goes on. -/
theorem byteStep_of_runByteSteps {dir : Direction} {n k : Nat} {s t : State} (h : runByteSteps dir n s = .next t)
    (hk : k < n) : ∃ u v, runByteSteps dir k s = .next u ∧ byteStep dir u = .next v := by
  obtain ⟨m, rfl⟩ := Nat.exists_eq_add_of_lt hk
  rw [Nat.add_assoc] at h
  obtain ⟨u, hu, h⟩ := runByteSteps_add_next.mp h
  obtain ⟨v, hv, -⟩ := runByteSteps_succ_next h
  exact ⟨u, v, hu, hv⟩

/-- A numbered property that holds at the start and is handed on by each of the first `m` byte steps holds, for the
number of steps made, at the end of a run. -/
theorem runByteSteps_counted {dir : Direction} {I : Nat → State → Prop} {m : Nat}
    (step : ∀ {k u v}, k < m → byteStep dir u = .next v → I k u → I (k + 1) (advance v)) {s t : State} {n : Nat}
    (start : I 0 s) (hn : n ≤ m) (h : runByteSteps dir n s = .next t) : I n t := by
  induction n generalizing t with
  | zero => cases h; exact start
  | succ n ih =>
    obtain ⟨u, hu, h⟩ := runByteSteps_add_next.mp h
    obtain ⟨v, hv, h⟩ := runByteSteps_succ_next h
    cases h
    exact step hn hv (ih (by omega) hu)

/-- A run goes on if a numbered property that is handed on makes each of its byte steps go on. -/
theorem runByteSteps_progress {dir : Direction} {I : Nat → State → Prop} {m : Nat}
    (step : ∀ {k u}, k < m → I k u → ∃ v, byteStep dir u = .next v ∧ I (k + 1) (advance v)) {s : State} {n : Nat}
    (start : I 0 s) (hn : n ≤ m) : ∃ t, runByteSteps dir n s = .next t ∧ I n t := by
  induction n with
  | zero => exact ⟨s, rfl, start⟩
  | succ n ih =>
    obtain ⟨u, hu, inv⟩ := ih (by omega)
    obtain ⟨v, hv, inv'⟩ := step hn inv
    exact ⟨_, runByteSteps_add_next.mpr ⟨u, hu, by simp only [runByteSteps, hv]⟩, inv'⟩

/-! ## The closed form from one step to the next -/

theorem two_le_scheduleInterval (s : State) : 2 ≤ scheduleInterval s := two_le_jumpInterval ..

theorem countAt_bounds (s : State) (k : Nat) : 1 ≤ countAt s k ∧ countAt s k ≤ scheduleInterval s := by
  have := Nat.mod_lt k (Nat.zero_lt_of_lt (two_le_scheduleInterval s))
  rw [countAt]
  omega

/-- A jump is due in step `k` exactly where `k + 1` is a multiple of JINT. -/
theorem countAt_sub_one_eq_zero_iff (s : State) (k : Nat) : countAt s k - 1 = 0 ↔ scheduleInterval s ∣ k + 1 := by
  have hJ := two_le_scheduleInterval s
  have := Nat.mod_lt k (Nat.zero_lt_of_lt hJ)
  rw [countAt, Nat.dvd_iff_mod_eq_zero, Nat.add_mod, Nat.mod_eq_of_lt (Nat.lt_of_succ_le hJ)]
  rcases Nat.lt_or_ge (k % scheduleInterval s + 1) (scheduleInterval s) with below | last
  · rw [Nat.mod_eq_of_lt below]
    omega
  · rw [show k % scheduleInterval s + 1 = scheduleInterval s by omega, Nat.mod_self]
    omega

theorem jumpsBefore_succ (s : State) (k : Nat) :
    jumpsBefore s (k + 1) = jumpsBefore s k + if countAt s k - 1 = 0 then 1 else 0 := by
  simp only [jumpsBefore, Nat.succ_div, countAt_sub_one_eq_zero_iff]

theorem polarityAt_succ (s : State) (k : Nat) :
    polarityAt s (k + 1) = if countAt s k - 1 = 0 then !polarityAt s k else polarityAt s k := by
  rw [polarityAt, polarityAt, jumpsBefore_succ]
  split
  next =>
    obtain h | h := Nat.mod_two_eq_zero_or_one (jumpsBefore s k) <;> simp [Nat.add_mod, h]
  next => rfl

theorem countAt_succ (s : State) (k : Nat) :
    countAt s (k + 1) = if countAt s k - 1 = 0 then scheduleInterval s else countAt s k - 1 := by
  have hJ := two_le_scheduleInterval s
  split
  next due =>
    rw [countAt, Nat.mod_eq_zero_of_dvd ((countAt_sub_one_eq_zero_iff s k).mp due), Nat.sub_zero]
  next notDue =>
    have := Nat.mod_lt k (Nat.zero_lt_of_lt hJ)
    rw [countAt] at notDue
    have below : k % scheduleInterval s + 1 < scheduleInterval s := by omega
    rw [countAt, countAt, Nat.add_mod, Nat.mod_eq_of_lt (Nat.lt_of_succ_le hJ), Nat.mod_eq_of_lt below]
    omega

theorem cursorAt_succ (s : State) (k : Nat) :
    cursorAt s (k + 1) =
      (cursorAt s k + 1 + if countAt s k - 1 = 0 then scheduleDistance s else 0) % keyLen s := by
  rw [cursorAt, cursorAt, jumpsBefore_succ, Nat.add_assoc (_ % _), Nat.mod_add_mod]
  split
  next => congr 1; ring
  next => congr 1; ring

/-! ## The machine at every global step -/

/-- `u` is a transform of `s` at the start of global step `k`: the schedule, the closed form of the cipher state
(spec/42_transform.md R106), and PASS and IDX counting the steps, the last of which they do not leave
(spec/10_state.md R24; notes/assumptions/5.md). -/
structure AtStep (s : State) (k : Nat) (u : State) : Prop where
  keySide : SameKeySide s u
  jint    : u.jint = scheduleInterval s
  jdist   : u.jdist = scheduleDistance s
  pos     : u.pos = cursorAt s k
  pol     : u.pol = polarityAt s k
  cnt     : u.cnt = countAt s k
  pass    : u.pass ≤ 9
  idx     : u.idx ≤ s.dlen.toNat - 1
  count   : u.pass * s.dlen.toNat + u.idx = min k (10 * s.dlen.toNat - 1)

theorem atStep_startTransform (s : State) : AtStep s 0 (startTransform s) where
  keySide := sameKeySide_startTransform s
  jint    := rfl
  jdist   := rfl
  pos     := by simp [cursorAt, jumpsBefore]
  pol     := by simp [polarityAt, jumpsBefore]
  cnt     := by simp [countAt, scheduleInterval]
  pass    := Nat.zero_le _
  idx     := Nat.zero_le _
  count   := by simp

/-- Before the last pass ends PASS and IDX are the step number, divided by the data length. -/
theorem AtStep.loop_of_lt {s u : State} {k : Nat} (at_k : AtStep s k u) (hk : k < 10 * s.dlen.toNat) :
    u.idx < s.dlen.toNat ∧ u.pass * s.dlen.toNat + u.idx = k := by
  have := at_k.idx
  have := at_k.count
  omega

theorem AtStep.idx_eq {s u : State} {k : Nat} (at_k : AtStep s k u) (hk : k < 10 * s.dlen.toNat) :
    u.idx = k % s.dlen.toNat := by
  obtain ⟨below, count⟩ := at_k.loop_of_lt hk
  rw [← count, Nat.mul_add_mod_self_right, Nat.mod_eq_of_lt below]

/-- Where PASS and IDX advance to, of a step inside the ten passes. -/
theorem AtStep.counters_succ {s u : State} {k : Nat} (at_k : AtStep s k u) (hk : k < 10 * s.dlen.toNat) :
    (advance u).pass ≤ 9 ∧ (advance u).idx ≤ s.dlen.toNat - 1 ∧
      (advance u).pass * s.dlen.toNat + (advance u).idx = min (k + 1) (10 * s.dlen.toNat - 1) := by
  obtain ⟨below, count⟩ := at_k.loop_of_lt hk
  have passes := Nat.mul_le_mul_right s.dlen.toNat at_k.pass
  have pass := at_k.pass
  simp only [advance_counters, at_k.keySide.dlen]
  split
  next inPass => omega
  next lastOfPass =>
    split
    next more =>
      have room := Nat.mul_le_mul_right s.dlen.toNat (Nat.le_of_lt_succ more)
      rw [Nat.succ_mul] at room ⊢
      omega
    next noMore =>
      have ninth : u.pass = 9 := Nat.le_antisymm pass (by omega)
      rw [ninth] at count ⊢
      omega

/-- A byte step leaves PASS and IDX for `advance`, so it can be put behind it. -/
theorem advance_applyByte_counters (dir : Direction) (x d : Byte) (u : State) :
    (advance (applyByte dir x d u)).pass = (advance u).pass ∧
      (advance (applyByte dir x d u)).idx = (advance u).idx := by
  simp only [advance_counters, applyByte_fields, and_self]

/-- A byte step that goes on leads to the start of the next global step. -/
theorem AtStep.succ {dir : Direction} {s u v : State} {k : Nat} (hk : k < 10 * s.dlen.toNat)
    (h : byteStep dir u = .next v) (at_k : AtStep s k u) : AtStep s (k + 1) (advance v) := by
  obtain ⟨x, d, -, -, rfl⟩ := byteStep_next h
  obtain ⟨pass, idx, count⟩ := at_k.counters_succ hk
  obtain ⟨samePass, sameIdx⟩ := advance_applyByte_counters dir x d u
  rw [← samePass] at pass count
  rw [← sameIdx] at idx count
  refine ⟨(at_k.keySide.trans (sameKeySide_applyByte ..)).trans (sameKeySide_advance _), ?_, ?_, ?_, ?_, ?_,
    pass, idx, count⟩
  all_goals
    simp only [advance_fields, applyByte_fields, applyByte_schedule, at_k.jint, at_k.jdist, at_k.pos, at_k.pol,
      at_k.cnt, at_k.keySide.klen, cursorAt_succ, polarityAt_succ, countAt_succ, keyLen]

/-- The machine after `k` byte steps of a transform (spec/42_transform.md R106). -/
theorem atStep_of_runByteSteps {dir : Direction} {s t : State} {k : Nat} (hk : k ≤ 10 * s.dlen.toNat)
    (h : runByteSteps dir k (startTransform s) = .next t) : AtStep s k t :=
  runByteSteps_counted AtStep.succ (atStep_startTransform s) hk h

theorem cursorAt_lt {s : State} (hmin : 4 ≤ s.klen.toNat) (k : Nat) : cursorAt s k < s.klen.toNat :=
  Nat.mod_lt _ (Nat.zero_lt_of_lt hmin)

/-- Settles O20: the machine is at the start of every global step it reaches, by induction over the steps. -/
theorem scheduleFollowsClosedForm : Obligations.ScheduleFollowsClosedForm := by
  unfold Obligations.ScheduleFollowsClosedForm
  intro dir s t k hmin hk h
  have at_k := atStep_of_runByteSteps hk.le h
  obtain ⟨below, count⟩ := at_k.loop_of_lt hk
  obtain ⟨cntMin, cntMax⟩ := countAt_bounds s k
  refine ⟨at_k.pos, at_k.pol, at_k.cnt, count, below, at_k.pass, at_k.jint, at_k.jdist, ?_, ?_, ?_⟩
  · rw [at_k.pos]; exact cursorAt_lt hmin k
  · rwa [at_k.cnt]
  · rwa [at_k.cnt, at_k.jint]

end Sys2Proof.Machine

/-!
PROOFS. The data of a transform (spec/42_transform.md R106, R110 to R115): the closed form of the result, which cells a
transform needs, and the laws that follow from the closed form.
-/

namespace Sys2Proof.Machine

/-! ## What one byte step adds to a data byte -/

/-- The sign of a direction in the closed form: ENC adds, DEC subtracts (spec/42_transform.md R106). -/
def dirSign : Direction → Int
  | .encrypt => 1
  | .decrypt => -1

theorem closedByte_eq (dir : Direction) (s : State) (blk : Nat → Byte) (i : Nat) (d : Byte) :
    closedByte dir s blk i d = BitVec.ofInt 8 (d.toNat + dirSign dir * delta s blk i) := by
  cases dir with
  | encrypt => rw [closedByte, dirSign, one_mul]
  | decrypt => rw [closedByte, dirSign, neg_one_mul, Int.sub_eq_add_neg]

theorem ofInt_toNat (x : Byte) : BitVec.ofInt 8 x.toNat = x := by simp

/-- A byte step moves a data byte by the signed key byte of its global step. -/
theorem mixByte_ofInt (dir : Direction) (s : State) (blk : Nat → Byte) (t : Nat) (z : Int) :
    mixByte dir (polarityAt s t) (BitVec.ofInt 8 z) (blk (cursorAt s t)) =
      BitVec.ofInt 8 (z + dirSign dir * signedKeyByte s blk t) := by
  cases dir <;> cases h : polarityAt s t <;>
    simp [mixByte, adds, dirBit, dirSign, signedKeyByte, h, BitVec.ofInt_add, BitVec.ofInt_neg, sub_eq_add_neg]

/-- The part of `Delta(i)` that the first `k` global steps contribute: the signed key bytes of the steps at index
`i`. -/
def partialDelta (s : State) (blk : Nat → Byte) (k i : Nat) : Int :=
  ∑ t ∈ Finset.range k, if t % s.dlen.toNat = i then signedKeyByte s blk t else 0

theorem partialDelta_zero (s : State) (blk : Nat → Byte) (i : Nat) : partialDelta s blk 0 i = 0 := rfl

theorem partialDelta_succ (s : State) (blk : Nat → Byte) (k i : Nat) :
    partialDelta s blk (k + 1) i =
      partialDelta s blk k i + if k % s.dlen.toNat = i then signedKeyByte s blk k else 0 :=
  Finset.sum_range_succ ..

/-- Each pass contributes one step at index `i`. -/
theorem partialDelta_passes (s : State) (blk : Nat → Byte) {i : Nat} (hi : i < s.dlen.toNat) (m : Nat) :
    partialDelta s blk (m * s.dlen.toNat) i =
      ∑ p ∈ Finset.range m, signedKeyByte s blk (p * s.dlen.toNat + i) := by
  induction m with
  | zero => simp [partialDelta]
  | succ m ih =>
    have pass : ∀ x ∈ Finset.range s.dlen.toNat,
        (if (m * s.dlen.toNat + x) % s.dlen.toNat = i then signedKeyByte s blk (m * s.dlen.toNat + x) else 0) =
          if i = x then signedKeyByte s blk (m * s.dlen.toNat + x) else 0 := by
      intro x hx
      rw [Nat.mul_add_mod_self_right, Nat.mod_eq_of_lt (Finset.mem_range.mp hx)]
      simp only [eq_comm]
    rw [Finset.sum_range_succ, ← ih, partialDelta, Nat.succ_mul, Finset.sum_range_add, Finset.sum_congr rfl pass,
      Finset.sum_ite_eq, if_pos (Finset.mem_range.mpr hi)]
    rfl

/-- `Delta(i)` as a sum over the passes (spec/42_transform.md R106). -/
theorem delta_eq_sum (s : State) (blk : Nat → Byte) (i : Nat) :
    delta s blk i = ∑ p ∈ Finset.range 10, signedKeyByte s blk (p * s.dlen.toNat + i) := rfl

/-- After ten passes the contributions at index `i` are `Delta(i)`. -/
theorem partialDelta_ten_passes (s : State) (blk : Nat → Byte) {i : Nat} (hi : i < s.dlen.toNat) :
    partialDelta s blk (10 * s.dlen.toNat) i = delta s blk i := by
  rw [partialDelta_passes s blk hi, delta_eq_sum]

/-! ## The data after every byte step -/

/-- The data at the start of global step `k` of a transform of the bytes `inp`: each byte moved by what the steps so
far contribute, the other cells as they were. -/
structure DataAtStep (dir : Direction) (s : State) (blk inp : Nat → Byte) (k : Nat) (u : State) : Prop where
  data    : ∀ i < s.dlen.toNat,
              Memory.read u.dbuf i = some (BitVec.ofInt 8 ((inp i).toNat + dirSign dir * partialDelta s blk k i))
  outside : ∀ a, s.dlen.toNat ≤ a → Memory.read u.dbuf a = Memory.read s.dbuf a

theorem dataAtStep_startTransform {s : State} {inp : Nat → Byte} (hin : dataIs s inp) (dir : Direction)
    (blk : Nat → Byte) : DataAtStep dir s blk inp 0 (startTransform s) where
  data    := fun i hi => by simpa [partialDelta_zero] using hin i hi
  outside := fun _ _ => rfl

/-- Where the cells visited hold values, the byte step at hand goes on and moves the byte at IDX. -/
theorem AtStep.progress {dir : Direction} {s u : State} {blk inp : Nat → Byte} {k : Nat}
    (visited : visitedBlock s blk) (hk : k < 10 * s.dlen.toNat) (at_k : AtStep s k u)
    (data_k : DataAtStep dir s blk inp k u) :
    ∃ v, byteStep dir u = .next v ∧ AtStep s (k + 1) (advance v) ∧ DataAtStep dir s blk inp (k + 1) (advance v) := by
  obtain ⟨below, -⟩ := at_k.loop_of_lt hk
  have hkey : Memory.read u.kbuf (keyByteAddr u) = some (blk (cursorAt s k)) := by
    rw [at_k.keySide.kbuf, keyByteAddr, at_k.pos]
    exact visited k hk
  have hstep := byteStep_some hkey (data_k.data u.idx below) (dir := dir)
  refine ⟨_, hstep, at_k.succ hk hstep, fun i hi => ?_, fun a ha => ?_⟩
  · simp only [advance_fields, read_dbuf_applyByte, at_k.pol, mixByte_ofInt, partialDelta_succ, ← at_k.idx_eq hk]
    split
    next here => rw [if_pos here.symm, here, Int.mul_add, Int.add_assoc]
    next elsewhere => rw [if_neg (Ne.symm elsewhere), Int.add_zero, data_k.data i hi]
  · simp only [advance_fields, read_dbuf_applyByte]
    rw [if_neg (by omega), data_k.outside a ha]

/-- Byte steps over written cells go on, and the machine and its data are those of the closed form. -/
theorem runByteSteps_closedForm {s : State} {blk inp : Nat → Byte} (visited : visitedBlock s blk)
    (hin : dataIs s inp) (dir : Direction) {k : Nat} (hk : k ≤ 10 * s.dlen.toNat) :
    ∃ u, runByteSteps dir k (startTransform s) = .next u ∧ AtStep s k u ∧ DataAtStep dir s blk inp k u :=
  runByteSteps_progress (I := fun k u => AtStep s k u ∧ DataAtStep dir s blk inp k u)
    (fun hk h => AtStep.progress visited hk h.1 h.2)
    ⟨atStep_startTransform s, dataAtStep_startTransform hin dir blk⟩ hk

/-- A transform of written cells completes with the closed form's bytes and its frame (spec/42_transform.md R106,
R110). -/
theorem transform_closedForm {s : State} {blk inp : Nat → Byte} (ready : TransformReady s)
    (visited : visitedBlock s blk) (hin : dataIs s inp) (dir : Direction) :
    ∃ t, transform dir s = .next t ∧ TransformResult dir s blk inp t := by
  obtain ⟨u, run, at_end, data_end⟩ := runByteSteps_closedForm visited hin dir le_rfl
  refine ⟨complete u, by rw [transform_of_passed ready.key ready.dlen, run]; rfl, fun i hi => ?_, data_end.outside,
    at_end.keySide.trans (sameKeySide_complete u), recordsSuccess_complete u⟩
  rw [complete_dbuf, data_end.data i hi, partialDelta_ten_passes s blk hi, closedByte_eq]

/-- Settles O21: in either direction, by induction over the byte steps. -/
theorem transformMatchesClosedForm : Obligations.TransformMatchesClosedForm := by
  unfold Obligations.TransformMatchesClosedForm
  simp only [exec_enc_eq_transform, exec_dec_eq_transform]
  exact fun s blk inp ready visited hin =>
    ⟨transform_closedForm ready visited hin .encrypt, transform_closedForm ready visited hin .decrypt⟩

end Sys2Proof.Machine

/-!
PROOFS. What a transform needs and what it depends on (spec/42_transform.md R111 to R115,
spec/70_reset_and_hazards.md R176).
-/

namespace Sys2Proof.Machine

/-! ## ENC and DEC, one argument for both -/

/-- Both transform commands are the transform in some direction. -/
theorem exists_transform_of_enc_or_dec {i : Instr} (hi : i = .enc ∨ i = .dec) :
    ∃ dir, ∀ s, exec i s = transform dir s := by
  obtain rfl | rfl := hi
  · exact ⟨.encrypt, exec_enc_eq_transform⟩
  · exact ⟨.decrypt, exec_dec_eq_transform⟩

/-! ## Which cells a transform needs -/

/-- What is not refused goes on or faults, and the one fault is that of a cell without a value. -/
theorem fault_iff_not_completes {r : Result} (notRefused : ∀ x, r ≠ .refused x) :
    (∃ sp a, r = .fault (.noValue sp a)) ↔ ¬ completes r := by
  cases r with
  | next t => simp [completes]
  | fault f => cases f; simp [completes]
  | refused x => exact absurd rfl (notRefused x)

/-- Every key-block cell that the schedule of `s` visits holds a value (spec/42_transform.md R115). -/
def visitedWritten (s : State) : Prop :=
  ∀ t < 10 * s.dlen.toNat, (Memory.read s.kbuf (7 + cursorAt s t)).isSome

theorem visitedWritten.exists_visitedBlock {s : State} (h : visitedWritten s) : ∃ blk, visitedBlock s blk :=
  ⟨fun j => (Memory.read s.kbuf (7 + j)).getD 0, fun t ht => by
    obtain ⟨x, hx⟩ := Option.isSome_iff_exists.mp (h t ht)
    simp only [hx, Option.getD_some]⟩

theorem exists_dataIs {s : State} (h : writtenBelow s.dbuf s.dlen.toNat) : ∃ inp, dataIs s inp :=
  ⟨fun i => (Memory.read s.dbuf i).getD 0, fun i hi => by
    obtain ⟨x, hx⟩ := Option.isSome_iff_exists.mp (h i hi)
    simp only [hx, Option.getD_some]⟩

/-- A transform that goes on has read, at each of its global steps, the key byte under the closed form's cursor. -/
theorem visitedWritten_of_next {dir : Direction} {s t : State} (ready : TransformReady s)
    (h : transform dir s = .next t) : visitedWritten s := by
  intro k hk
  obtain ⟨w, run, -⟩ := transform_next_of_passed ready.key ready.dlen h
  obtain ⟨u, v, hu, hstep⟩ := byteStep_of_runByteSteps run hk
  obtain ⟨x, d, hx, -, -⟩ := byteStep_next hstep
  have at_k := atStep_of_runByteSteps hk.le hu
  rw [at_k.keySide.kbuf, keyByteAddr, at_k.pos] at hx
  exact Option.isSome_of_eq_some hx

/-- A transform that goes on has read every data cell: cell `j` in the first pass, at global step `j`. -/
theorem dataWritten_of_next {dir : Direction} {s t : State} (ready : TransformReady s)
    (h : transform dir s = .next t) : writtenBelow s.dbuf s.dlen.toNat := by
  intro j hj
  obtain ⟨w, run, -⟩ := transform_next_of_passed ready.key ready.dlen h
  have hstep : j < 10 * s.dlen.toNat := by omega
  obtain ⟨u, v, hu, step⟩ := byteStep_of_runByteSteps run hstep
  obtain ⟨x, d, -, hd, -⟩ := byteStep_next step
  have index := (atStep_of_runByteSteps hstep.le hu).idx_eq hstep
  rw [Nat.mod_eq_of_lt hj] at index
  rw [dataAddr, index] at hd
  exact (isSome_read_runByteSteps hu j).symm.trans (Option.isSome_of_eq_some hd)

/-- A transform past its checks completes exactly when the cells it visits hold values. -/
theorem transform_completes_iff {s : State} (ready : TransformReady s) (dir : Direction) :
    completes (transform dir s) ↔ visitedWritten s ∧ writtenBelow s.dbuf s.dlen.toNat := by
  constructor
  · rintro ⟨t, h⟩
    exact ⟨visitedWritten_of_next ready h, dataWritten_of_next ready h⟩
  · rintro ⟨visited, written⟩
    obtain ⟨blk, hblk⟩ := visited.exists_visitedBlock
    obtain ⟨inp, hinp⟩ := exists_dataIs written
    obtain ⟨t, h, -⟩ := transform_closedForm ready hblk hinp dir
    exact ⟨t, h⟩

/-- Settles O23: a transform is never refused, so it faults exactly where it does not complete. -/
theorem transformFaultsExactlyOnUnwrittenCells : Obligations.TransformFaultsExactlyOnUnwrittenCells := by
  unfold Obligations.TransformFaultsExactlyOnUnwrittenCells
  intro s i ready hi
  obtain ⟨dir, run⟩ := exists_transform_of_enc_or_dec hi
  rw [run, fault_iff_not_completes (transform_not_refused dir s), transform_completes_iff ready, not_and_or]
  simp only [visitedWritten, writtenBelow, not_forall, Option.not_isSome_iff_eq_none, exists_prop]

/-- Where a transform went on, its result is the closed form's for any names of the bytes it read. -/
theorem TransformResult.of_next {dir : Direction} {s t : State} {blk inp : Nat → Byte} (ready : TransformReady s)
    (visited : visitedBlock s blk) (hin : dataIs s inp) (h : transform dir s = .next t) :
    TransformResult dir s blk inp t := by
  obtain ⟨t', h', result⟩ := transform_closedForm ready visited hin dir
  cases h.symm.trans h'
  exact result

/-! ## What the output depends on -/

/-- `s'` has the schedule of `s`: the parameters, the data length and the decoded key's fields agree
(spec/41_jump_schedule.md R95). -/
structure SameSchedule (s s' : State) : Prop where
  cfg   : s'.cfg = s.cfg
  dlen  : s'.dlen = s.dlen
  klen  : s'.klen = s.klen
  jfreq : s'.jfreq = s.jfreq
  jlen  : s'.jlen = s.jlen

theorem SameKeySide.schedule {s s' : State} (h : SameKeySide s s') : SameSchedule s s' :=
  ⟨h.cfg, h.dlen, h.klen, h.jfreq, h.jlen⟩

theorem SameSchedule.interval {s s' : State} (h : SameSchedule s s') : scheduleInterval s' = scheduleInterval s := by
  simp only [scheduleInterval, dataLen, h.cfg, h.dlen, h.jfreq]

theorem SameSchedule.cursorAt {s s' : State} (h : SameSchedule s s') (t : Nat) : cursorAt s' t = cursorAt s t := by
  simp only [Machine.cursorAt, jumpsBefore, scheduleDistance, keyLen, h.interval, h.klen, h.jlen]

theorem SameSchedule.polarityAt {s s' : State} (h : SameSchedule s s') (t : Nat) :
    polarityAt s' t = polarityAt s t := by
  simp only [Machine.polarityAt, jumpsBefore, h.interval]

theorem SameSchedule.delta {s s' : State} (h : SameSchedule s s') (blk : Nat → Byte) (i : Nat) :
    delta s' blk i = delta s blk i := by
  simp only [delta_eq_sum, signedKeyByte, h.cursorAt, h.polarityAt, h.dlen]

theorem SameSchedule.closedByte {s s' : State} (h : SameSchedule s s') (dir : Direction) (blk : Nat → Byte) (i : Nat)
    (d : Byte) : closedByte dir s' blk i d = closedByte dir s blk i d := by
  simp only [closedByte_eq, h.delta]

/-- Settles O24: agreeing states have the same schedule and hold the same bytes in the cells it visits, so the closed
form gives the same data. -/
theorem transformIsAFunctionOfItsInputs : Obligations.TransformIsAFunctionOfItsInputs := by
  unfold Obligations.TransformIsAFunctionOfItsInputs
  intro s s' t i ready agree hi h
  obtain ⟨dir, run⟩ := exists_transform_of_enc_or_dec hi
  rw [run] at h
  rw [run]
  obtain ⟨blk, hblk⟩ := (visitedWritten_of_next ready h).exists_visitedBlock
  obtain ⟨inp, hinp⟩ := exists_dataIs (dataWritten_of_next ready h)
  have schedule : SameSchedule s s' := ⟨agree.cfg, agree.dlen, agree.klen, agree.jfreq, agree.jlen⟩
  have ready' : TransformReady s' := by
    refine ⟨agree.kvalid.trans ready.key, ?_, ?_⟩
    · rw [agree.klen]; exact ready.klen
    · rw [agree.dlen, agree.cfg]; exact ready.dlen
  have visited' : visitedBlock s' blk := by
    intro k hk
    rw [agree.dlen] at hk
    rw [schedule.cursorAt, agree.block _ (cursorAt_lt ready.klen k), hblk k hk]
  have hinp' : dataIs s' inp := by
    intro j hj
    rw [agree.dlen] at hj
    rw [agree.data j hj, hinp j hj]
  obtain ⟨t', h', result'⟩ := transform_closedForm ready' visited' hinp' dir
  refine ⟨t', h', fun j hj => ?_⟩
  rw [result'.data j (by rwa [agree.dlen]), schedule.closedByte,
    (TransformResult.of_next ready hblk hinp h).data j hj]

/-! ## The change of a byte -/

/-- What a transform adds to data byte `i` does not mention the data (spec/42_transform.md R112 (b)). -/
theorem closedByte_sub (dir : Direction) (s : State) (blk : Nat → Byte) (i : Nat) (d : Byte) :
    closedByte dir s blk i d - d = BitVec.ofInt 8 (dirSign dir * delta s blk i) := by
  rw [closedByte_eq, BitVec.ofInt_add, ofInt_toNat, add_sub_cancel_left]

/-- Settles O26: the two runs have one schedule and one key block. -/
theorem byteChangeIsIndependentOfData : Obligations.ByteChangeIsIndependentOfData := by
  unfold Obligations.ByteChangeIsIndependentOfData
  intro s t t' db inp inp' i ready hi hinp hinp' h h' j hj
  obtain ⟨dir, run⟩ := exists_transform_of_enc_or_dec hi
  rw [run] at h h'
  obtain ⟨blk, hblk⟩ := (visitedWritten_of_next ready h).exists_visitedBlock
  have ready' : TransformReady { s with dbuf := db } := ⟨ready.key, ready.klen, ready.dlen⟩
  refine ⟨_, _, (TransformResult.of_next ready hblk hinp h).data j hj,
    (TransformResult.of_next ready' hblk hinp' h').data j hj, ?_⟩
  rw [closedByte_sub, closedByte_sub]
  rfl

/-! ## Repeated ENC -/

/-- The host's issue of a command runs it (spec/30_encoding.md R70). -/
theorem hostStep_issueOp (i : Instr) (s : State) : hostStep (issueOp i) s = exec i s := by
  cases i <;> rfl

/-- A transform leaves the block ready for another one of the same key and length. -/
theorem SameKeySide.ready {s t : State} (same : SameKeySide s t) (ready : TransformReady s) : TransformReady t := by
  obtain ⟨key, klen, dlen⟩ := ready
  refine ⟨same.kvalid.trans key, ?_, ?_⟩
  · rwa [same.klen]
  · rwa [same.dlen, same.cfg]

theorem SameKeySide.visitedBlock {s t : State} {blk : Nat → Byte} (same : SameKeySide s t)
    (visited : visitedBlock s blk) : visitedBlock t blk := by
  intro k hk
  rw [same.dlen] at hk
  rw [same.kbuf, same.schedule.cursorAt]
  exact visited k hk

/-- Settles O27: by induction over the number of commands, each adding `Delta(i)` once. -/
theorem repeatedEncAddsDelta : Obligations.RepeatedEncAddsDelta := by
  unfold Obligations.RepeatedEncAddsDelta
  intro m
  induction m with
  | zero =>
    intro s blk inp _ _ hinp
    exact ⟨s, rfl, fun j hj => by simpa using hinp j hj⟩
  | succ m ih =>
    intro s blk inp ready visited hinp
    obtain ⟨t, h, result⟩ := transform_closedForm ready visited hinp .encrypt
    have hdata : dataIs t (fun i => closedByte .encrypt s blk i (inp i)) := by
      intro i hi
      rw [result.keySide.dlen] at hi
      exact result.data i hi
    obtain ⟨u, hu, data⟩ := ih t blk _ (result.keySide.ready ready) (result.keySide.visitedBlock visited) hdata
    refine ⟨u, ?_, fun j hj => ?_⟩
    · rw [List.replicate_succ]
      simpa only [runOps, hostStep_issueOp, exec_enc_eq_transform, h] using hu
    · have sum : (inp j).toNat + ((m + 1 : Nat) : Int) * delta s blk j =
          (inp j).toNat + 1 * delta s blk j + m * delta s blk j := by push_cast; ring
      rw [data j (by rwa [result.keySide.dlen]), result.keySide.schedule.delta, sum, closedByte_eq, dirSign,
        BitVec.ofInt_add, ofInt_toNat, BitVec.ofInt_add _ (m * _)]

/-! ## Negated and uniform key blocks -/

/-- A byte is a number modulo 256 (spec/42_transform.md R105). -/
theorem ofInt_eq_of_dvd_sub {a b : Int} (h : 256 ∣ a - b) : BitVec.ofInt 8 a = BitVec.ofInt 8 b := by
  apply BitVec.eq_of_toNat_eq
  simp only [BitVec.toNat_ofInt]
  omega

/-- The block of negated bytes (spec/42_transform.md R112 (e)). -/
def negatedBlock (blk : Nat → Byte) (j : Nat) : Byte := BitVec.ofNat 8 (256 - (blk j).toNat)

/-- Negating the block negates `Delta(i)` modulo 256. -/
theorem dvd_delta_negatedBlock (s : State) (blk : Nat → Byte) (i : Nat) :
    256 ∣ delta s (negatedBlock blk) i + delta s blk i := by
  rw [delta_eq_sum, delta_eq_sum, ← Finset.sum_add_distrib]
  refine Finset.dvd_sum fun p _ => ?_
  simp only [signedKeyByte, negatedBlock, BitVec.toNat_ofNat]
  split <;> omega

/-- Settles O28: the two closed forms differ by a multiple of 256. -/
theorem decIsEncUnderNegatedBlock : Obligations.DecIsEncUnderNegatedBlock := by
  unfold Obligations.DecIsEncUnderNegatedBlock
  intro s kb blk ready visited visited' written
  obtain ⟨inp, hinp⟩ := exists_dataIs written
  have ready' : TransformReady { s with kbuf := kb } := ⟨ready.key, ready.klen, ready.dlen⟩
  obtain ⟨t, h, result⟩ := transform_closedForm ready visited hinp .decrypt
  obtain ⟨t', h', result'⟩ := transform_closedForm ready' visited' hinp .encrypt
  refine ⟨t, t', h, h', fun a => ?_⟩
  rcases Nat.lt_or_ge a s.dlen.toNat with inside | outside
  · rw [result.data a inside, result'.data a inside, closedByte_eq, closedByte_eq]
    have negates := dvd_delta_negatedBlock s blk a
    refine congrArg some (ofInt_eq_of_dvd_sub ?_)
    change 256 ∣ (_ + 1 * delta s (negatedBlock blk) a) - (_ + -1 * delta s blk a)
    omega
  · rw [result.outside a outside, result'.outside a outside]

/-- Terms `c` and `-c` sum to `c` times their balance. -/
theorem sum_map_signed (l : List Nat) (pol : Nat → Bool) (c : Int) :
    (l.map fun p => if pol p then -c else c).sum = c * ((l.countP fun p => !pol p : Nat) - (l.countP pol : Nat)) := by
  induction l with
  | nil => simp
  | cons p l ih =>
    rw [List.map_cons, List.sum_cons, ih, List.countP_cons, List.countP_cons]
    cases pol p <;> simp <;> ring

/-- `Delta(i)` of a block of equal bytes (spec/42_transform.md R112 (g)). -/
theorem delta_uniform (s : State) (c : Byte) (i : Nat) : delta s (fun _ => c) i = c.toNat * passBalance s i :=
  sum_map_signed (List.range 10) (fun p => polarityAt s (p * s.dlen.toNat + i)) c.toNat

/-- Settles O29: `Delta(i)` is the byte times the balance, which for the zero block is 0. -/
theorem uniformKeyBlockLaw : Obligations.UniformKeyBlockLaw := by
  unfold Obligations.UniformKeyBlockLaw
  intro s c inp ready visited hinp
  obtain ⟨t, h, enc⟩ := transform_closedForm ready visited hinp .encrypt
  obtain ⟨u, h', dec⟩ := transform_closedForm ready visited hinp .decrypt
  refine ⟨t, u, h, h', fun j hj => ?_, ?_⟩
  · simp only [enc.data j hj, dec.data j hj, closedByte, delta_uniform, and_self]
  · rintro rfl a
    rcases Nat.lt_or_ge a s.dlen.toNat with inside | outside
    · simp [enc.data a inside, dec.data a inside, closedByte, delta_uniform, hinp a inside]
    · exact ⟨enc.outside a outside, dec.outside a outside⟩

/-! ## The registers after the last step, and whole passes -/

/-- Settles O30: the machine at global step `10 * DLEN`, its loop counters at the last step. -/
theorem finalRegistersOfATransform : Obligations.FinalRegistersOfATransform := by
  unfold Obligations.FinalRegistersOfATransform
  intro s t i ready hi h
  obtain ⟨dir, run⟩ := exists_transform_of_enc_or_dec hi
  rw [run] at h
  obtain ⟨u, run, rfl⟩ := transform_next_of_passed ready.key ready.dlen h
  have at_end := atStep_of_runByteSteps le_rfl run
  refine ⟨at_end.jint, at_end.jdist, at_end.pos, at_end.pol, at_end.cnt, ?_⟩
  by_cases empty : s.dlen = 0
  · rw [empty] at run
    cases run
    simp [empty]
  · have data : 0 < s.dlen.toNat := by
      rw [Nat.pos_iff_ne_zero]
      exact fun h => empty (BitVec.eq_of_toNat_eq h)
    have pass := at_end.pass
    have idx := at_end.idx
    have count := at_end.count
    have ninth : u.pass = 9 := by
      refine Nat.le_antisymm pass ?_
      by_contra! early
      have := Nat.mul_le_mul_right s.dlen.toNat (Nat.le_of_lt_succ early)
      omega
    rw [ninth] at count
    refine ⟨?_, ?_⟩
    · rw [complete_idx]; omega
    · rw [if_neg empty, complete_pass, ninth]

/-- The cipher state of global step `k` is the initial one (spec/42_transform.md R107). -/
def initialAt (s : State) (k : Nat) : Prop :=
  cursorAt s k = 0 ∧ polarityAt s k = false ∧ countAt s k = scheduleInterval s

/-- The counter and the polarity are the initial ones after an even number of whole intervals, and the cursor is at 0
after whole turns. -/
theorem initialAt_iff (s : State) (k : Nat) :
    initialAt s k ↔
      2 * scheduleInterval s ∣ k ∧ s.klen.toNat ∣ k + k / scheduleInterval s * scheduleDistance s := by
  have positive := Nat.zero_lt_of_lt (two_le_scheduleInterval s)
  have counter : countAt s k = scheduleInterval s ↔ scheduleInterval s ∣ k := by
    have := Nat.mod_lt k positive
    rw [countAt, Nat.dvd_iff_mod_eq_zero]
    omega
  have polarity : polarityAt s k = false ↔ 2 ∣ k / scheduleInterval s := by
    rw [polarityAt, jumpsBefore, Nat.dvd_iff_mod_eq_zero, beq_eq_false_iff_ne]
    omega
  have even (whole : scheduleInterval s ∣ k) : 2 ∣ k / scheduleInterval s ↔ 2 * scheduleInterval s ∣ k := by
    rw [Nat.mul_comm]
    exact Nat.dvd_div_iff_mul_dvd whole
  rw [initialAt, counter, polarity, cursorAt, jumpsBefore, keyLen, ← Nat.dvd_iff_mod_eq_zero, and_comm]
  refine and_congr_left fun _ => ⟨fun h => (even h.2).mp h.1, fun h => ?_⟩
  have whole := (Nat.dvd_mul_left _ 2).trans h
  exact ⟨(even whole).mpr h, whole⟩

/-- If one pass ends in the initial cipher state, so does every number of passes. -/
theorem initialAt_passes {s : State} {n : Nat} (h : initialAt s n) (p : Nat) : initialAt s (p * n) := by
  rw [initialAt_iff] at h ⊢
  obtain ⟨even, turns⟩ := h
  have whole := (Nat.dvd_mul_left _ 2).trans even
  refine ⟨even.mul_left p, ?_⟩
  rw [Nat.mul_div_assoc p whole, Nat.mul_assoc, ← Nat.mul_add]
  exact turns.mul_left p

/-- A run of byte steps inside a transform of written cells goes on. -/
theorem exists_atStep {s : State} {blk : Nat → Byte} (visited : visitedBlock s blk)
    (written : writtenBelow s.dbuf s.dlen.toNat) (dir : Direction) {k : Nat} (hk : k ≤ 10 * s.dlen.toNat) :
    ∃ t, runByteSteps dir k (startTransform s) = .next t ∧ AtStep s k t := by
  obtain ⟨inp, hinp⟩ := exists_dataIs written
  obtain ⟨t, run, at_k, -⟩ := runByteSteps_closedForm visited hinp dir hk
  exact ⟨t, run, at_k⟩

/-- Settles O31: the first pass decides, and the machine is at the closed form's state after each. -/
theorem passesRepeatExactlyWhen : Obligations.PassesRepeatExactlyWhen := by
  unfold Obligations.PassesRepeatExactlyWhen
  intro dir s blk _ visited written
  refine Iff.trans ?_ (initialAt_iff s s.dlen.toNat)
  constructor
  · intro h
    obtain ⟨t, run, pos, pol, cnt⟩ := h 1 (by decide)
    rw [Nat.one_mul] at run
    have at_one := atStep_of_runByteSteps (by omega) run
    exact ⟨at_one.pos.symm.trans pos, at_one.pol.symm.trans pol, by rw [← at_one.cnt, cnt, at_one.jint]⟩
  · intro h p hp
    have inside : p * s.dlen.toNat ≤ 10 * s.dlen.toNat := Nat.mul_le_mul_right _ hp.le
    obtain ⟨t, run, at_p⟩ := exists_atStep visited written dir inside
    obtain ⟨pos, pol, cnt⟩ := initialAt_passes h p
    exact ⟨t, run, at_p.pos.trans pos, at_p.pol.trans pol, by rw [at_p.cnt, cnt, at_p.jint]⟩

/-! ## The two-by-two table -/

/-- Settles O19: `Adds` selects the sum or the difference of the bytes, each modulo 256. -/
theorem polarityTable : Obligations.PolarityTable := by
  unfold Obligations.PolarityTable
  intro d k
  have sum : (d + k).toNat = (d.toNat + k.toNat) % 256 := BitVec.toNat_add d k
  have difference : (d - k).toNat = (d.toNat + 256 - k.toNat) % 256 := by
    have := k.isLt
    rw [BitVec.toNat_sub]
    omega
  exact ⟨sum, difference, difference, sum⟩

end Sys2Proof.Machine

/-!
PROOFS. Commands and the host's accesses (spec/10_state.md R11 to R17, R26 to R34; spec/20_memory.md R42, R47;
spec/60_exceptions.md R153 to R157).
-/

namespace Sys2Proof.Machine

/-! ## Commands -/

theorem decode_encode (i : Instr) : decode (encode i) = .ok i := by
  cases i <;> rfl

/-- Settles O3: `eq_encode_of_decode_ok` is one direction, `decode_encode` the other. -/
theorem decodeInvertsEncode : Obligations.DecodeInvertsEncode := by
  unfold Obligations.DecodeInvertsEncode
  refine fun w i => ⟨eq_encode_of_decode_ok, ?_⟩
  rintro rfl
  exact decode_encode i

/-- Settles O4: three words are those of the commands, the other two have no command's bits. -/
theorem tableWordsDecode : Obligations.TableWordsDecode :=
  ⟨decode_encode .kdec, decode_encode .enc, decode_encode .dec, rfl, rfl⟩

/-- Settles O1: a CMD write issues its word, and a word that decodes runs its command. -/
theorem stepRunsDecodedCommand : Obligations.StepRunsDecodedCommand := by
  unfold Obligations.StepRunsDecodedCommand
  intro s w i rest hop hw _
  rw [step_cmdWrite hop, issueCommand, hw]

/-- Everything a CMD write can do when it goes on: KDEC, a transform, or BADCMD (spec/10_state.md R26). -/
theorem issueCommand_next_cases {w : Word} {s t : State} (h : issueCommand w s = .next t) :
    (w = 1 ∧ KdecOutcome s t) ∨
    (∃ dir, w = encode (commandOf dir) ∧ transform dir s = .next t) ∨
    ((∀ i, w ≠ encode i) ∧ t = illegalCommand w s) := by
  obtain ⟨i, hi, run⟩ | ⟨e, he, illegal⟩ := issueCommand_cases w s
  · obtain rfl := eq_encode_of_decode_ok hi
    rw [run] at h
    cases i with
    | kdec => exact .inl ⟨rfl, .of_execKdec h⟩
    | enc => exact .inr (.inl ⟨.encrypt, rfl, h⟩)
    | dec => exact .inr (.inl ⟨.decrypt, rfl, h⟩)
  · cases illegal.symm.trans h
    exact .inr (.inr ⟨ne_encode_of_decode_error he, rfl⟩)

theorem encode_commandOf_ne_one (dir : Direction) : encode (commandOf dir) ≠ 1 := by
  cases dir <;> decide

/-- A transform that goes on leaves the key side as it was, whether it completes or fails. -/
theorem sameKeySide_transform {dir : Direction} {s t : State} (h : transform dir s = .next t) : SameKeySide s t := by
  obtain ⟨-, rfl⟩ | ⟨-, -, rfl⟩ | ⟨-, -, u, run, rfl⟩ := transform_next h
  · exact ⟨rfl, rfl, rfl, rfl, rfl, rfl, rfl, rfl, rfl⟩
  · exact ⟨rfl, rfl, rfl, rfl, rfl, rfl, rfl, rfl, rfl⟩
  · exact ((sameKeySide_startTransform s).trans (sameKeySide_runByteSteps run)).trans (sameKeySide_complete u)

/-- KDEC leaves everything but the record and the decoded key (spec/40_key_decode.md R81, R82). -/
theorem KdecOutcome.sameButRecordAndKey {s t : State} (h : KdecOutcome s t) : SameButRecordAndKey s t := by
  cases h <;> exact ⟨rfl, rfl, rfl, rfl, rfl, rfl, rfl, rfl, rfl, rfl, rfl, rfl, rfl⟩

/-- KVALID after KDEC tells success from failure (spec/10_state.md R17). -/
theorem KdecOutcome.flags {s t : State} (h : KdecOutcome s t) :
    (t.kvalid = true ∧ t.ok = true ∧ t.err = false) ∨ (t.kvalid = false ∧ t.ok = false ∧ t.err = true) := by
  cases h with
  | rejected _ => exact .inr ⟨rfl, rfl, rfl⟩
  | accepted _ _ => exact .inl ⟨rfl, rfl, rfl⟩

/-- Of all commands only KDEC writes KVALID (spec/10_state.md R17). -/
theorem issueCommand_kvalid {w : Word} {s t : State} (h : issueCommand w s = .next t) (notKdec : w ≠ 1) :
    t.kvalid = s.kvalid := by
  obtain ⟨kdec, -⟩ | ⟨dir, -, run⟩ | ⟨-, rfl⟩ := issueCommand_next_cases h
  · exact absurd kdec notKdec
  · exact (sameKeySide_transform run).kvalid
  · rfl

/-- No command writes the parameters (spec/00_scope.md R6). -/
theorem issueCommand_cfg {w : Word} {s t : State} (h : issueCommand w s = .next t) : t.cfg = s.cfg := by
  obtain ⟨-, outcome⟩ | ⟨dir, -, run⟩ | ⟨-, rfl⟩ := issueCommand_next_cases h
  · exact outcome.sameButRecordAndKey.cfg
  · exact (sameKeySide_transform run).cfg
  · rfl

/-! ## Failed commands -/

/-- `raise Error` writes the record and nothing else (spec/60_exceptions.md R153). -/
theorem sameButRecordAndKey_raiseError (kind : ErrKind) (sub : ErrSub) (exp act : Word) (s : State) :
    SameButRecordAndKey s (raiseError kind sub exp act s) :=
  ⟨rfl, rfl, rfl, rfl, rfl, rfl, rfl, rfl, rfl, rfl, rfl, rfl, rfl⟩

/-- A transform that fails changes nothing but the record. -/
theorem sameButRecordAndKey_transform {dir : Direction} {s t : State} (h : transform dir s = .next t)
    (failed : t.err = true) : SameButRecordAndKey s t := by
  obtain ⟨-, rfl⟩ | ⟨-, -, rfl⟩ | ⟨-, -, u, -, rfl⟩ := transform_next h
  · exact sameButRecordAndKey_raiseError ..
  · exact sameButRecordAndKey_raiseError ..
  · cases failed

/-- Settles O33: KDEC withdraws the key, every other word leaves it. -/
theorem failedCommandChangesOnlyTheRecord : Obligations.FailedCommandChangesOnlyTheRecord := by
  unfold Obligations.FailedCommandChangesOnlyTheRecord
  intro w s t h failed
  obtain ⟨rfl, outcome⟩ | ⟨dir, rfl, run⟩ | ⟨notCommand, rfl⟩ := issueCommand_next_cases h
  · refine ⟨outcome.sameButRecordAndKey, fun _ => ?_, fun notKdec => absurd rfl notKdec⟩
    obtain ⟨-, -, succeeded⟩ | ⟨noKey, -, -⟩ := outcome.flags
    · simp [failed] at succeeded
    · exact noKey
  · have same := sameKeySide_transform run
    exact ⟨sameButRecordAndKey_transform run failed, fun kdec => absurd kdec (encode_commandOf_ne_one dir),
      fun _ => ⟨same.kvalid, same.klen, same.jfreq, same.jlen⟩⟩
  · exact ⟨sameButRecordAndKey_raiseError .., fun kdec => absurd kdec (notCommand .kdec),
      fun _ => ⟨rfl, rfl, rfl, rfl⟩⟩

/-- Settles O6: a failed KDEC is a rejected candidate, and the transforms then meet their first check. -/
theorem failedKdecWithdrawsTheKey : Obligations.FailedKdecWithdrawsTheKey := by
  unfold Obligations.FailedKdecWithdrawsTheKey
  intro s t h failed
  simp only [exec_enc_eq_transform, exec_dec_eq_transform]
  cases execKdec_eq_next_iff.mp h with
  | rejected _ =>
    exact ⟨rfl, rfl, rfl, rfl, rfl, rfl, rfl, rfl, rfl, rfl, transform_of_noKey rfl .encrypt,
      transform_of_noKey rfl .decrypt⟩
  | accepted _ _ => cases failed

/-- Settles O34: the key is checked before the length, and a failed command leaves the host's writes as they are. -/
theorem nokeyComesBeforeDlenRange : Obligations.NokeyComesBeforeDlenRange := by
  unfold Obligations.NokeyComesBeforeDlenRange
  simp only [exec_enc_eq_transform, exec_dec_eq_transform]
  exact fun s noKey _ =>
    ⟨_, transform_of_noKey noKey .encrypt, transform_of_noKey noKey .decrypt, rfl, rfl, rfl⟩

/-! ## Registers -/

/-- A read of a register's offset answers its value (spec/10_state.md R12). -/
theorem hostStep_readOp (r : RegName) (s : State) :
    hostStep (readOp r) s = .next (answer (.reg (readRegister r s)) s) := by
  rw [readOp, hostStep, regAt_regOffset]

/-- A write of a register's offset is that register's write (spec/10_state.md R12). -/
theorem hostStep_writeOp (r : RegName) (v : Word) (s : State) : hostStep (writeOp r v) s = writeRegister r v s := by
  rw [writeOp, hostStep, regAt_regOffset]

/-- Settles O35: each offset is that of its register, and narrower contents get zeros above. -/
theorem registerReadsReturnTheirContent : Obligations.RegisterReadsReturnTheirContent := by
  unfold Obligations.RegisterReadsReturnTheirContent
  intro s
  simp only [BitVec.ofNat_toNat]
  exact ⟨hostStep_readOp .cmd s, hostStep_readOp .status s, hostStep_readOp .errcode s, hostStep_readOp .errsub s,
    hostStep_readOp .errexp s, hostStep_readOp .erract s, hostStep_readOp .kbufLen s, hostStep_readOp .dlen s,
    hostStep_readOp .klen s, hostStep_readOp .jfreq s, hostStep_readOp .jlen s⟩

/-- Settles O36: two registers store, the eight others of the list are read-only. -/
theorem registerWritesStoreOrAreIgnored : Obligations.RegisterWritesStoreOrAreIgnored := by
  unfold Obligations.RegisterWritesStoreOrAreIgnored
  refine fun s v => ⟨hostStep_writeOp .kbufLen v s, hostStep_writeOp .dlen v s, ?_⟩
  simp only [List.forall_mem_cons]
  exact ⟨hostStep_writeOp .status v s, hostStep_writeOp .errcode v s, hostStep_writeOp .errsub v s,
    hostStep_writeOp .errexp v s, hostStep_writeOp .erract v s, hostStep_writeOp .klen v s,
    hostStep_writeOp .jfreq v s, hostStep_writeOp .jlen v s, List.forall_mem_nil _⟩

/-- Settles O41: STATUS is below 8, and its three bits are the three flags. -/
theorem statusBits : Obligations.StatusBits := by
  unfold Obligations.StatusBits
  intro s
  change (statusWord s).getLsbD 0 = _ ∧ (statusWord s).getLsbD 1 = _ ∧ (statusWord s).getLsbD 2 = _ ∧
    ∀ j, 3 ≤ j → (statusWord s).getLsbD j = false
  have small : s.kvalid.toNat + 2 * s.ok.toNat + 4 * s.err.toNat < 2 ^ 3 := by
    have := Bool.toNat_lt s.kvalid
    have := Bool.toNat_lt s.ok
    have := Bool.toNat_lt s.err
    omega
  refine ⟨?_, ?_, ?_, fun j hj => ?_⟩
  case refine_4 =>
    rw [statusWord, BitVec.getLsbD_ofNat,
      Nat.testBit_lt_two_pow (small.trans_le (Nat.pow_le_pow_right (by decide) hj)), Bool.and_false]
  all_goals
    rw [statusWord]
    cases s.kvalid <;> cases s.ok <;> cases s.err <;> rfl

/-! ## Buffer cells -/

theorem hostStep_writeByte {sp : Space} {a : Nat} {s : State} (existing : a < capacityOf sp s) (v : Byte) :
    hostStep (.writeByte sp a v) s = .next (storeCell sp a v s) :=
  if_pos existing

theorem hostStep_readByte {sp : Space} {a : Nat} {s : State} (existing : a < capacityOf sp s) :
    hostStep (.readByte sp a) s = .next (loadCell sp a s) :=
  if_pos existing

theorem loadCell_some {sp : Space} {a : Nat} {s : State} {v : Byte} (h : Memory.read (bufferOf sp s) a = some v) :
    loadCell sp a s = answer (.byte v) s := by
  rw [loadCell, h]

theorem loadCell_none {sp : Space} {a : Nat} {s : State} (h : Memory.read (bufferOf sp s) a = none) :
    loadCell sp a s = answer (.byte (Config.freeReadByte s.host.freeReads))
      { s with host := { s.host with freeReads := s.host.freeReads + 1 } } := by
  rw [loadCell, h]

/-- Settles O37: a write is one `Memory.write`, a read one answer. -/
theorem byteAccessesReadAndWriteOneCell : Obligations.ByteAccessesReadAndWriteOneCell := by
  unfold Obligations.ByteAccessesReadAndWriteOneCell
  refine fun s a v => ⟨fun existing => ?kbuf, fun existing => ?dbuf, fun sp existing h => ?value,
    fun sp existing h => ?noValue⟩
  case kbuf => exact ⟨_, hostStep_writeByte (sp := .kbuf) existing v, Memory.read_write s.kbuf a v⟩
  case dbuf => exact ⟨_, hostStep_writeByte (sp := .dbuf) existing v, Memory.read_write s.dbuf a v⟩
  case value => rw [hostStep_readByte existing, loadCell_some h]
  case noValue =>
    rw [hostStep_readByte existing, loadCell_none h]
    exact ⟨_, _, rfl⟩

/-! ## Refusals -/

/-- Every register of the map, once (spec/10_state.md R11). -/
def allRegisters : List RegName := registerMap.map Prod.snd

theorem mem_allRegisters (r : RegName) : r ∈ allRegisters := by
  cases r <;> decide

/-- The listed offsets are those of the registers. -/
theorem mem_registerOffsets_iff (off : Nat) : off ∈ registerOffsets ↔ ∃ r, regOffset r = off := by
  change off ∈ allRegisters.map regOffset ↔ _
  simp only [List.mem_map, mem_allRegisters, true_and]

theorem regAt_eq_none_iff (off : Nat) : regAt off = none ↔ registerOffsets.contains off = false := by
  rw [← Bool.not_eq_true, List.contains_iff_mem, mem_registerOffsets_iff, ← Option.not_isSome_iff_eq_none, not_iff_not,
    Option.isSome_iff_exists]
  constructor
  · rintro ⟨r, hr⟩
    exact ⟨r, (regOffset_of_regAt hr).symm⟩
  · rintro ⟨r, rfl⟩
    exact ⟨r, regAt_regOffset r⟩

/-- A register write other than to CMD goes on (spec/10_state.md R12). -/
theorem completes_writeRegister {r : RegName} (notCmd : r ≠ .cmd) (v : Word) (s : State) :
    completes (writeRegister r v s) := by
  cases r with
  | cmd => exact absurd rfl notCmd
  | _ => exact ⟨_, rfl⟩

/-- A cell access is in the map exactly where the cell exists (spec/93_implementation_defined.md U3). -/
theorem wellFormed_byteAccess (sp : Space) (a : Nat) (v : Byte) (s : State) :
    HostOp.wellFormed s.cfg.dmax (.writeByte sp a v) = decide (a < capacityOf sp s) ∧
    HostOp.wellFormed s.cfg.dmax (.readByte sp a) = decide (a < capacityOf sp s) := by
  cases sp <;> exact ⟨rfl, rfl⟩

/-- What an operation inside the map does: the cell or register exists, so it goes on or is a CMD write. -/
theorem hostStep_of_wellFormed {op : HostOp} {s : State} (h : op.wellFormed s.cfg.dmax = true) :
    completes (hostStep op s) ∨ ∃ w, op = .writeReg 0x00 w ∧ hostStep op s = issueCommand w s := by
  cases op with
  | writeReg off v =>
    obtain ⟨r, rfl⟩ := (mem_registerOffsets_iff off).mp (List.contains_iff_mem.mp h)
    by_cases cmd : r = .cmd
    · exact .inr ⟨v, by rw [cmd]; rfl, by rw [cmd]; rfl⟩
    · exact .inl (hostStep_writeOp r v s ▸ completes_writeRegister cmd v s)
  | readReg off =>
    obtain ⟨r, rfl⟩ := (mem_registerOffsets_iff off).mp (List.contains_iff_mem.mp h)
    exact .inl ⟨_, hostStep_readOp r s⟩
  | writeByte sp a v =>
    rw [(wellFormed_byteAccess sp a v s).1, decide_eq_true_eq] at h
    exact .inl ⟨_, hostStep_writeByte h v⟩
  | readByte sp a =>
    rw [(wellFormed_byteAccess sp a 0 s).2, decide_eq_true_eq] at h
    exact .inl ⟨_, hostStep_readByte h⟩
  | reset => exact .inl ⟨_, rfl⟩

/-- An operation outside the map is refused before the state is touched. -/
theorem hostStep_of_not_wellFormed {op : HostOp} {s : State} (h : op.wellFormed s.cfg.dmax = false) :
    ∃ r, hostStep op s = .refused r := by
  cases op with
  | writeReg off v => exact ⟨_, by rw [hostStep, (regAt_eq_none_iff off).mpr h]⟩
  | readReg off => exact ⟨_, by rw [hostStep, (regAt_eq_none_iff off).mpr h]⟩
  | writeByte sp a v =>
    rw [(wellFormed_byteAccess sp a v s).1, decide_eq_false_iff_not] at h
    exact ⟨_, if_neg h⟩
  | readByte sp a =>
    rw [(wellFormed_byteAccess sp a 0 s).2, decide_eq_false_iff_not] at h
    exact ⟨_, if_neg h⟩
  | reset => cases h

/-- Settles O38: inside the map an operation goes on or is a command, and no command is refused. -/
theorem refusedExactlyOutsideTheMap : Obligations.RefusedExactlyOutsideTheMap := by
  unfold Obligations.RefusedExactlyOutsideTheMap
  refine fun op s => ⟨⟨?_, hostStep_of_not_wellFormed⟩, fun inside notCmd => ?_⟩
  · rintro ⟨r, refused⟩
    by_contra inside
    obtain ⟨t, h⟩ | ⟨w, -, h⟩ := hostStep_of_wellFormed (Bool.eq_true_of_not_eq_false inside)
    · cases refused.symm.trans h
    · exact issueCommand_not_refused w s r (h.symm.trans refused)
  · obtain h | ⟨w, isCmd, -⟩ := hostStep_of_wellFormed inside
    · exact h
    · exact absurd isCmd (notCmd w)

/-! ## Reset, KVALID and the parameters -/

/-- Every register of a block right after reset reads 0 (spec/10_state.md R34). -/
theorem readRegister_afterReset (r : RegName) (cfg : Config.Params) (host : HostPort) :
    readRegister r (State.afterReset cfg host) = 0 := by
  cases r <;> rfl

theorem read_bufferOf_afterReset (sp : Space) (a : Nat) (cfg : Config.Params) (host : HostPort) :
    Memory.read (bufferOf sp (State.afterReset cfg host)) a = none := by
  cases sp <;> rfl

/-- Settles O39: the reset input and `State.reset` are both `State.afterReset`. -/
theorem resetLeavesTheStatedValues : Obligations.ResetLeavesTheStatedValues :=
  ⟨fun s => ⟨resetBlock s, rfl, rfl, rfl, rfl, fun r => readRegister_afterReset r _ _,
      fun sp a => read_bufferOf_afterReset sp a _ _⟩,
    fun r => readRegister_afterReset r _ _, rfl, fun sp a => read_bufferOf_afterReset sp a _ _⟩

/-- A read of a cell writes the host's side only. -/
theorem exists_loadCell_eq (sp : Space) (a : Nat) (s : State) : ∃ host, loadCell sp a s = { s with host := host } := by
  cases h : Memory.read (bufferOf sp s) a with
  | some v => exact ⟨_, loadCell_some h⟩
  | none => exact ⟨_, loadCell_none h⟩

/-- The events that clear KVALID (spec/10_state.md R17). -/
def Withdraws (op : HostOp) (t : State) : Prop :=
  op = .reset ∨ (op = .writeReg 0x00 1 ∧ t.err = true) ∨ (∃ a v, op = .writeByte .kbuf a v) ∨
    ∃ v, op = .writeReg 0x18 v

/-- A host operation is a KDEC that completed, an event that clears KVALID, or leaves KVALID (spec/10_state.md
R17). -/
theorem hostStep_kvalid {op : HostOp} {s t : State} (h : hostStep op s = .next t) :
    (op = .writeReg 0x00 1 ∧ t.kvalid = true ∧ t.ok = true ∧ t.err = false) ∨
    (Withdraws op t ∧ t.kvalid = false) ∨ (¬ Withdraws op t ∧ t.kvalid = s.kvalid) := by
  obtain ⟨w, rfl, hw⟩ | ⟨v, rfl, rfl⟩ | ⟨v, rfl, rfl⟩ | ⟨off, v, r, rfl, hr, notCmd, notLen, -, rfl⟩ |
    ⟨off, r, rfl, hr, rfl⟩ |
    ⟨sp, a, v, rfl, -, rfl⟩ | ⟨sp, a, rfl, -, rfl⟩ | ⟨rfl, rfl⟩ := hostStep_next h
  · by_cases kdec : w = 1
    · subst kdec
      obtain ⟨-, outcome⟩ | ⟨dir, isTransform, -⟩ | ⟨notCommand, -⟩ := issueCommand_next_cases hw
      · obtain ⟨key, ok, noErr⟩ | ⟨noKey, -, failed⟩ := outcome.flags
        · exact .inl ⟨rfl, key, ok, noErr⟩
        · exact .inr (.inl ⟨.inr (.inl ⟨rfl, failed⟩), noKey⟩)
      · exact absurd isTransform.symm (encode_commandOf_ne_one dir)
      · exact absurd rfl (notCommand .kdec)
    · refine .inr (.inr ⟨fun withdraws => ?_, issueCommand_kvalid hw kdec⟩)
      obtain h | ⟨h, -⟩ | ⟨_, _, h⟩ | ⟨_, h⟩ := withdraws <;> cases h
      exact kdec rfl
  · exact .inr (.inl ⟨.inr (.inr (.inr ⟨v, rfl⟩)), rfl⟩)
  · exact .inr (.inr ⟨by simp [Withdraws], rfl⟩)
  · refine .inr (.inr ⟨fun withdraws => ?_, rfl⟩)
    obtain h | ⟨h, -⟩ | ⟨_, _, h⟩ | ⟨_, h⟩ := withdraws <;> cases h
    · cases hr; exact notCmd rfl
    · cases hr; exact notLen rfl
  · exact .inr (.inr ⟨by simp [Withdraws], rfl⟩)
  · cases sp with
    | kbuf => exact .inr (.inl ⟨.inr (.inr (.inl ⟨a, v, rfl⟩)), rfl⟩)
    | dbuf => exact .inr (.inr ⟨by simp [Withdraws], rfl⟩)
  · refine .inr (.inr ⟨by simp [Withdraws], ?_⟩)
    obtain ⟨host, hl⟩ := exists_loadCell_eq sp a s
    rw [hl]
  · exact .inr (.inl ⟨.inl rfl, rfl⟩)

/-- Settles O40: each clause is one of the three cases of `hostStep_kvalid`. -/
theorem kvalidChangesOnlyAsStated : Obligations.KvalidChangesOnlyAsStated := by
  unfold Obligations.KvalidChangesOnlyAsStated
  intro op s t h
  change _ ∧ (_ → _ → Withdraws op t) ∧ (Withdraws op t → _)
  obtain ⟨kdec, key, ok, noErr⟩ | ⟨withdraws, noKey⟩ | ⟨keeps, same⟩ := hostStep_kvalid h
  · refine ⟨fun _ _ => ⟨kdec, ok⟩, fun _ noKey => ?_, fun withdraws => ?_⟩
    · simp [key] at noKey
    · subst kdec
      simp [Withdraws, noErr] at withdraws
  · refine ⟨fun _ key => ?_, fun _ _ => withdraws, fun _ => noKey⟩
    simp [noKey] at key
  · refine ⟨fun before after => ?_, fun before after => ?_, fun withdraws => absurd withdraws keeps⟩
    · simp [same, before] at after
    · simp [same, before] at after

/-- No host operation writes the parameters. -/
theorem hostStep_cfg {op : HostOp} {s t : State} (h : hostStep op s = .next t) : t.cfg = s.cfg := by
  obtain ⟨w, -, h⟩ | ⟨v, -, rfl⟩ | ⟨v, -, rfl⟩ | ⟨off, v, r, -, -, -, -, -, rfl⟩ | ⟨off, r, -, -, rfl⟩ |
    ⟨sp, a, v, -, -, rfl⟩ | ⟨sp, a, -, -, rfl⟩ | ⟨-, rfl⟩ := hostStep_next h
  · exact issueCommand_cfg h
  · rfl
  · rfl
  · rfl
  · rfl
  · cases sp <;> rfl
  · obtain ⟨host, hl⟩ := exists_loadCell_eq sp a s
    rw [hl]
  · rfl

/-- Settles O47: a step is a host operation or nothing. -/
theorem stepKeepsTheParameters : Obligations.StepKeepsTheParameters := by
  unfold Obligations.StepKeepsTheParameters
  intro s t h
  obtain ⟨-, idle⟩ | ⟨op, rest, -, taken⟩ := step_cases s
  · cases idle.symm.trans h
    rfl
  · rw [taken] at h
    exact (hostStep_cfg h).trans (withPending_cfg rest s)

end Sys2Proof.Machine

/-!
PROOFS. The binary64 evaluation of jump_interval (spec/41_jump_schedule.md R92): each rounding has a relative error of
at most one part in 2^53, so that the product stays within less than 1/255 of the exact quotient.
-/

namespace Sys2Proof.Machine

/-! ## One rounding -/

/-- Rounding to nearest is off by at most half. -/
theorem roundNearestEven_bounds (a : Nat) {b : Nat} (hb : 0 < b) :
    2 * a ≤ 2 * (roundNearestEven a b * b) + b ∧ 2 * (roundNearestEven a b * b) ≤ 2 * a + b := by
  have division := Nat.div_add_mod' a b
  have := Nat.mod_lt a hb
  unfold roundNearestEven
  split
  next up => rw [Nat.add_mul, Nat.one_mul]; omega
  next down => omega

/-- A quotient without remainder is rounded to itself. -/
theorem roundNearestEven_mul (m : Nat) {b : Nat} (hb : 0 < b) : roundNearestEven (m * b) b = m := by
  simp [roundNearestEven, Nat.mul_div_cancel m hb, hb.ne]

/-- The rational number a dyadic stands for. -/
def Dyadic.value (d : Dyadic) : ℚ := d.mant / 2 ^ d.scale

/-- The integer part of a dyadic. -/
theorem Dyadic.floor_bounds (d : Dyadic) :
    ((d.mant / 2 ^ d.scale : Nat) : ℚ) ≤ d.value ∧ d.value < (d.mant / 2 ^ d.scale : Nat) + 1 := by
  have positive : (0 : ℚ) < 2 ^ d.scale := by positivity
  rw [Dyadic.value, le_div_iff₀ positive, div_lt_iff₀ positive]
  norm_cast
  exact ⟨Nat.div_mul_le_self .., (Nat.div_lt_iff_lt_mul (by positivity)).mp (Nat.lt_succ_self _)⟩

theorem fl_eq {a : Nat} (ha : a ≠ 0) (b : Nat) :
    (fl a b).mant = roundNearestEven (a * 2 ^ (fl a b).scale) b := by
  simp only [fl, if_neg ha]

/-- The scale leaves at least 53 significant bits. -/
theorem le_scaled_fl {a : Nat} (ha : a ≠ 0) (b : Nat) : 2 ^ 52 * b ≤ a * 2 ^ (fl a b).scale := by
  simp only [fl, if_neg ha]
  split
  next enough => exact enough
  next =>
    have hb : b < 2 ^ (Nat.log2 b + 1) := Nat.lt_log2_self
    have ha : 2 ^ Nat.log2 a ≤ a := Nat.log2_self_le ha
    calc 2 ^ 52 * b
      _ ≤ 2 ^ 52 * 2 ^ (Nat.log2 b + 1) := Nat.mul_le_mul_left _ hb.le
      _ = 2 ^ (53 + Nat.log2 b) := by rw [← pow_add]; congr 1; omega
      _ ≤ 2 ^ (Nat.log2 a + (53 + Nat.log2 b - Nat.log2 a)) := Nat.pow_le_pow_right (by decide) (by omega)
      _ = 2 ^ Nat.log2 a * 2 ^ (53 + Nat.log2 b - Nat.log2 a) := pow_add ..
      _ ≤ a * 2 ^ (53 + Nat.log2 b - Nat.log2 a) := Nat.mul_le_mul_right _ ha

/-- The relative error of `fl` (spec/41_jump_schedule.md R92). -/
theorem abs_fl_sub_le (a : Nat) {b : Nat} (hb : 0 < b) : |(fl a b).value - a / b| ≤ a / b / 2 ^ 53 := by
  by_cases ha : a = 0
  · simp [ha, fl, Dyadic.value]
  · have hb' : (0 : ℚ) < b := by exact_mod_cast hb
    have positive : (0 : ℚ) < 2 ^ (fl a b).scale := by positivity
    have bounds := roundNearestEven_bounds (a * 2 ^ (fl a b).scale) hb
    have enough := le_scaled_fl ha b
    rw [← fl_eq ha] at bounds
    obtain ⟨lower, upper⟩ := bounds
    have lower : 2 * ((a : ℚ) * 2 ^ (fl a b).scale) ≤ 2 * ((fl a b).mant * b) + b := by exact_mod_cast lower
    have upper : 2 * (((fl a b).mant : ℚ) * b) ≤ 2 * (a * 2 ^ (fl a b).scale) + b := by exact_mod_cast upper
    have enough : (2 : ℚ) ^ 52 * b ≤ a * 2 ^ (fl a b).scale := by exact_mod_cast enough
    have difference : (fl a b).value - a / b =
        ((fl a b).mant * b - a * 2 ^ (fl a b).scale) / (2 ^ (fl a b).scale * b) := by
      rw [Dyadic.value]
      field_simp
    have bound : (a : ℚ) / b / 2 ^ 53 = a * 2 ^ (fl a b).scale / 2 ^ 53 / (2 ^ (fl a b).scale * b) := by
      field_simp
    have denominator := mul_pos positive hb'
    rw [difference, bound, abs_div, abs_of_pos denominator, div_le_div_iff_of_pos_right denominator, abs_le]
    constructor <;> linarith

/-- `fl` is exact on a quotient without remainder. -/
theorem value_fl_mul (m : Nat) {b : Nat} (hb : 0 < b) : (fl (b * m) b).value = m := by
  by_cases hm : m = 0
  · simp [hm, fl, Dyadic.value]
  · rw [Dyadic.value, fl_eq (Nat.mul_ne_zero hb.ne' hm), Nat.mul_right_comm, Nat.mul_comm b, Nat.mul_right_comm,
      roundNearestEven_mul _ hb]
    push_cast
    field_simp

/-! ## The product -/

/-- `r = fl(jf / 255)` (spec/41_jump_schedule.md R92). -/
def ratio64 (jf : Nat) : Dyadic := fl jf 255

/-- `p = fl(r * q)` (spec/41_jump_schedule.md R92). -/
def product64 (q jf : Nat) : Dyadic := fl ((ratio64 jf).mant * q) (2 ^ (ratio64 jf).scale)

/-- `trunc(p)` (spec/41_jump_schedule.md R92). -/
def trunc64 (q jf : Nat) : Nat := (product64 q jf).mant / 2 ^ (product64 q jf).scale

theorem jumpInterval_binary64 (n jf : Nat) : jumpInterval .binary64 n jf = max (trunc64 (n / 16) jf) 2 := rfl

/-- Two roundings keep the product within less than 1/255 of `jf * q / 255`. -/
theorem abs_product64_sub_lt {q jf : Nat} (hq : q < 2 ^ 28) (hjf : jf ≤ 255) :
    |(product64 q jf).value - jf * q / 255| < 1 / 255 := by
  have ratio := abs_fl_sub_le jf (b := 255) (by decide)
  have product := abs_fl_sub_le ((ratio64 jf).mant * q) (b := 2 ^ (ratio64 jf).scale) (by positivity)
  rw [← ratio64] at ratio
  rw [← product64, Nat.cast_mul, Nat.cast_pow, mul_div_right_comm, Nat.cast_ofNat, ← Dyadic.value] at product
  push_cast at ratio
  have hq' : (q : ℚ) ≤ 2 ^ 28 := by exact_mod_cast hq.le
  have hq0 : (0 : ℚ) ≤ q := Nat.cast_nonneg q
  have hjf' : (jf : ℚ) / 255 ≤ 1 := by
    rw [div_le_one (by norm_num)]
    exact_mod_cast hjf
  have closeRatio : |(ratio64 jf).value - jf / 255| ≤ 1 / 2 ^ 53 :=
    ratio.trans (div_le_div_of_nonneg_right hjf' (by positivity))
  have smallRatio : (ratio64 jf).value ≤ 2 := by linarith [(abs_le.mp closeRatio).2]
  have closeProduct : |(product64 q jf).value - (ratio64 jf).value * q| ≤ 2 * 2 ^ 28 / 2 ^ 53 :=
    product.trans (div_le_div_of_nonneg_right (mul_le_mul smallRatio hq' hq0 (by norm_num)) (by positivity))
  have scaled : |(ratio64 jf).value * q - jf * q / 255| ≤ 1 / 2 ^ 53 * 2 ^ 28 := by
    rw [show (ratio64 jf).value * q - jf * q / 255 = ((ratio64 jf).value - jf / 255) * q by ring, abs_mul,
      abs_of_nonneg hq0]
    exact mul_le_mul closeRatio hq' hq0 (by norm_num)
  calc |(product64 q jf).value - jf * q / 255|
    _ ≤ |(product64 q jf).value - (ratio64 jf).value * q| + |(ratio64 jf).value * q - jf * q / 255| :=
      abs_sub_le ..
    _ ≤ 2 * 2 ^ 28 / 2 ^ 53 + 1 / 2 ^ 53 * 2 ^ 28 := add_le_add closeProduct scaled
    _ < 1 / 255 := by norm_num

/-- The integer part of the product is that of the exact quotient, or one less where that quotient is an integer. -/
theorem trunc64_bounds {q jf : Nat} (hq : q < 2 ^ 28) (hjf : jf ≤ 255) :
    255 * trunc64 q jf ≤ jf * q ∧ jf * q ≤ 255 * trunc64 q jf + 255 := by
  obtain ⟨lower, upper⟩ := abs_lt.mp (abs_product64_sub_lt hq hjf)
  obtain ⟨floor, ceil⟩ := (product64 q jf).floor_bounds
  rw [← trunc64] at floor ceil
  have below : (255 * trunc64 q jf : ℚ) < jf * q + 1 := by linarith
  have above : (jf * q : ℚ) < 255 * trunc64 q jf + 256 := by linarith
  have below : 255 * trunc64 q jf < jf * q + 1 := by exact_mod_cast below
  have above : jf * q < 255 * trunc64 q jf + 256 := by exact_mod_cast above
  omega

theorem trunc64_zero (q : Nat) : trunc64 q 0 = 0 := by
  simp [trunc64, product64, ratio64, fl]

/-- The ratio 255 / 255 is exact, and so is its product with a natural number. -/
theorem trunc64_255 (q : Nat) : trunc64 q 255 = q := by
  have ratio : ratio64 255 = ⟨2 ^ 52, 52⟩ := by decide
  have product : product64 q 255 = fl (2 ^ 52 * q) (2 ^ 52) := by rw [product64, ratio]
  obtain ⟨floor, ceil⟩ := (product64 q 255).floor_bounds
  rw [← trunc64] at floor ceil
  rw [product, value_fl_mul q (by decide)] at floor ceil
  have floor : trunc64 q 255 ≤ q := by exact_mod_cast floor
  have ceil : q < trunc64 q 255 + 1 := by exact_mod_cast ceil
  omega

/-- Settles O13: the clamp to 2 can only hide the difference of one. -/
theorem binaryEvaluationIsAtMostOneLess : Obligations.BinaryEvaluationIsAtMostOneLess := by
  unfold Obligations.BinaryEvaluationIsAtMostOneLess
  intro n jf hn hjf
  obtain ⟨below, above⟩ := trunc64_bounds (q := n / 16) (by omega) hjf
  rw [jumpInterval_binary64, jumpInterval_exact]
  refine ⟨by omega, ?_⟩
  rintro (rfl | rfl)
  · rw [trunc64_zero, Nat.zero_mul, Nat.zero_div]
  · rw [trunc64_255, Nat.mul_div_cancel_left _ (by decide)]

end Sys2Proof.Machine

/-!
PROOFS. The invariant of the block (spec/10_state.md R35 with R19 to R24, spec/60_exceptions.md R151): reset meets it,
every host operation keeps it, and under it the commands end (spec/70_reset_and_hazards.md R179, R182).
-/

namespace Sys2Proof.Machine

/-! ## Reset and the host's accesses -/

/-- A block right after reset meets the invariant, whatever its parameters and host (spec/10_state.md R34). -/
theorem inv_afterReset {cfg : Config.Params} (host : HostPort) (capacity : 1 ≤ cfg.dmax.toNat) :
    Inv (State.afterReset cfg host) where
  dmax_pos    := capacity
  kbuf_wf     := rfl
  dbuf_wf     := rfl
  ok_err      := nofun
  errcode_err := ⟨fun _ => rfl, fun _ => rfl⟩
  no_error    := fun _ => ⟨rfl, rfl, rfl⟩
  error_codes := nofun
  key_framed  := nofun
  pos_width   := Nat.two_pow_pos _
  cnt_width   := Nat.two_pow_pos _
  jint_width  := Nat.two_pow_pos _
  jdist_width := Nat.two_pow_pos _
  pass_range  := Nat.zero_le _
  idx_width   := Nat.two_pow_pos _

/-- DMAX, whichever value the instance has, is at least 1 (spec/00_scope.md R6). -/
theorem one_le_dmax : 1 ≤ Config.dmax.toNat := by
  unfold Config.dmax
  split
  next => decide
  next positive =>
    rw [Nat.one_le_iff_ne_zero]
    exact fun h => positive (BitVec.eq_of_toNat_eq h)

/-- Settles O45: `State.reset` is a block right after reset, and its DMAX is in range. -/
theorem invariantHoldsAtReset : Obligations.InvariantHoldsAtReset :=
  inv_afterReset _ one_le_dmax

/-- The invariant does not mention the host's side. -/
theorem Inv.withHost {s : State} (h : Inv s) (host : HostPort) : Inv { s with host := host } :=
  { h with key_framed := fun key => { h.key_framed key with } }

/-- The invariant does not mention DLEN. -/
theorem Inv.withDlen {s : State} (h : Inv s) (v : Word) : Inv { s with dlen := v } :=
  { h with key_framed := fun key => { h.key_framed key with } }

/-- A new KBUF_LEN needs no framing, as the key is withdrawn with it (spec/10_state.md R17). -/
theorem Inv.withKbufLen {s : State} (h : Inv s) (v : Word) : Inv (withdrawKey { s with kbufLen := v }) :=
  { h with key_framed := nofun }

/-- A byte written to an existing cell keeps the buffers canonical, and in KBUF withdraws the key. -/
theorem Inv.storeCell {s : State} (h : Inv s) {sp : Space} {a : Nat} (existing : a < capacityOf sp s) (v : Byte) :
    Inv (storeCell sp a v s) := by
  cases sp with
  | kbuf => exact { h with kbuf_wf := Memory.wf_write _ _ _ v existing h.kbuf_wf, key_framed := nofun }
  | dbuf =>
    exact { h with
      dbuf_wf := Memory.wf_write _ _ _ v existing h.dbuf_wf
      key_framed := fun key => { h.key_framed key with } }

/-! ## The record -/

/-- Withdrawing the key keeps the invariant. -/
theorem Inv.withdrawKey {s : State} (h : Inv s) : Inv (withdrawKey s) :=
  { h with key_framed := nofun }

theorem errorCodes_mem (sub : ErrSub) : (errKindCode (errSubKind sub), errSubCode sub) ∈ errorCodePairs := by
  cases sub <;> decide

/-- An error raised with the kind of its sub-cause leaves a row of the error table (spec/60_exceptions.md R151). -/
theorem Inv.raiseError {s : State} (h : Inv s) {kind : ErrKind} {sub : ErrSub} (row : errSubKind sub = kind)
    (exp act : Word) : Inv (raiseError kind sub exp act s) := by
  subst row
  refine { h with
    ok_err := nofun, errcode_err := ⟨fun none => ?_, nofun⟩, no_error := nofun
    error_codes := fun _ => errorCodes_mem sub, key_framed := fun key => { h.key_framed key with } }
  cases sub <;> cases none

/-- Completing a command clears the record (spec/60_exceptions.md R154). -/
theorem Inv.complete {s : State} (h : Inv s) : Inv (complete s) :=
  { h with
    ok_err := nofun, errcode_err := ⟨fun _ => rfl, fun _ => rfl⟩, no_error := fun _ => ⟨rfl, rfl, rfl⟩
    error_codes := nofun, key_framed := fun key => { h.key_framed key with } }

/-! ## KDEC -/

/-- The key that KDEC decodes is the one framed in KBUF: part (c) of spec/10_state.md R35. -/
theorem keyFramed_of_accepts {s : State} {kl : BitVec 16} {jf : Byte} {jl : BitVec 24}
    (checks : KdecAccepts s.kbufLen s.kbuf kl) (fields : JumpFieldsRead s.kbuf jf jl) :
    KeyFramed { s with klen := kl, jfreq := jf, jlen := jl, kvalid := true } := by
  obtain ⟨hi, lo, h1, h2, rfl⟩ := checks.pre.bytes
  obtain ⟨h3, b2, b1, b0, h4, h5, h6, rfl⟩ := fields
  exact {
    length := checks.length, klen_min := Nat.le_of_not_lt checks.range, header := checks.pre.header
    klen := ⟨hi, lo, h1, h2, (be16_toNat hi lo).symm⟩, jfreq := h3
    jlen := ⟨b2, b1, b0, h4, h5, h6, (be24_toNat b2 b1 b0).symm⟩, finalizer := checks.finalizer }

theorem Inv.kdecOutcome {s t : State} (h : Inv s) (outcome : KdecOutcome s t) : Inv t := by
  cases outcome with
  | rejected checks => exact h.withdrawKey.raiseError checks.errSubKind_eq _ _
  | accepted checks fields =>
    have decoded : Inv { s with klen := _, jfreq := _, jlen := _, kvalid := true } :=
      { h with key_framed := fun _ => keyFramed_of_accepts checks fields }
    exact decoded.complete

/-! ## ENC and DEC -/

/-- Under either evaluation JINT is at most the number of whole blocks, or 2. -/
theorem jumpInterval_le (ev : Config.JiEval) {n jf : Nat} (hn : n < 2 ^ 32) (hjf : jf ≤ 255) :
    jumpInterval ev n jf ≤ max 2 (n / 16) := by
  have exact_le := jumpInterval_exact_le (n := n) hjf
  cases ev with
  | exact => exact exact_le
  | binary64 =>
    obtain ⟨same | ⟨-, -, less⟩, -⟩ := binaryEvaluationIsAtMostOneLess n jf hn hjf
    · exact same ▸ exact_le
    · omega

theorem scheduleInterval_lt (s : State) : scheduleInterval s < 2 ^ 32 := by
  have hn := s.dlen.isLt
  have bound := jumpInterval_le s.cfg.jiEval hn (Nat.le_of_lt_succ s.jfreq.isLt)
  rw [scheduleInterval, dataLen]
  omega

theorem scheduleDistance_lt {s : State} (hmin : 4 ≤ s.klen.toNat) : scheduleDistance s < 2 ^ 23 :=
  (jumpDistance_le (Nat.le_of_lt_succ s.jlen.isLt) hmin (Nat.le_of_lt_succ s.klen.isLt)).trans_lt (by decide)

/-- Byte steps write only cells that hold values, which lie below the capacity. -/
theorem dbuf_wf_runByteSteps {dir : Direction} {cap n : Nat} {s t : State} (h : runByteSteps dir n s = .next t)
    (wf : Memory.wf cap s.dbuf = true) : Memory.wf cap t.dbuf = true := by
  refine runByteSteps_induction (I := fun u => Memory.wf cap u.dbuf = true) (fun {u v} hstep wf => ?_) h wf
  obtain ⟨k, d, -, hd, rfl⟩ := byteStep_next hstep
  have existing : u.idx < cap := by
    by_contra! beyond
    rw [dataAddr, Memory.read_beyond cap u.dbuf 0 u.idx wf beyond] at hd
    cases hd
  simp only [advance_fields, applyByte_fields]
  exact Memory.wf_write cap _ _ _ existing wf

/-- Byte steps write no result register. -/
theorem record_runByteSteps {dir : Direction} {n : Nat} {s t : State} (h : runByteSteps dir n s = .next t) :
    t.ok = s.ok ∧ t.err = s.err ∧ t.errcode = s.errcode ∧ t.errsub = s.errsub ∧ t.errexp = s.errexp ∧
      t.erract = s.erract := by
  refine runByteSteps_induction (I := fun u => u.ok = s.ok ∧ u.err = s.err ∧ u.errcode = s.errcode ∧
    u.errsub = s.errsub ∧ u.errexp = s.errexp ∧ u.erract = s.erract) (fun {u v} hstep same => ?_) h
    ⟨rfl, rfl, rfl, rfl, rfl, rfl⟩
  obtain ⟨k, d, -, -, rfl⟩ := byteStep_next hstep
  simpa only [advance_fields, applyByte_record] using same

/-- The framing of the Key depends on the key side only. -/
theorem KeyFramed.sameKeySide {s t : State} (h : KeyFramed s) (same : SameKeySide s t) : KeyFramed t := by
  obtain ⟨length, klen_min, header, klen, jfreq, jlen, finalizer⟩ := h
  simp only [keyLen] at length klen_min finalizer
  constructor <;>
    simpa only [keyLen, same.kbuf, same.kbufLen, same.klen, same.jfreq, same.jlen]

/-- The registers of a transform stay within their widths (spec/10_state.md R19 to R24). -/
theorem Inv.transform {dir : Direction} {s t : State} (h : Inv s) (next : transform dir s = .next t) : Inv t := by
  obtain ⟨-, rfl⟩ | ⟨-, -, rfl⟩ | ⟨key, fits, u, run, rfl⟩ := transform_next next
  · exact h.raiseError (by rfl) _ _
  · exact h.raiseError (by rfl) _ _
  have framed := h.key_framed key
  have hmin : 4 ≤ s.klen.toNat := framed.klen_min
  have at_end := atStep_of_runByteSteps le_rfl run
  have same := at_end.keySide
  have klen := s.klen.isLt
  have dlen := s.dlen.isLt
  have pos := cursorAt_lt hmin (10 * s.dlen.toNat)
  obtain ⟨-, cnt⟩ := countAt_bounds s (10 * s.dlen.toNat)
  have jint := scheduleInterval_lt s
  have idx := at_end.idx
  obtain ⟨ok, err, errcode, errsub, errexp, erract⟩ := record_runByteSteps run
  have inv : Inv u := {
    dmax_pos := same.cfg ▸ h.dmax_pos
    kbuf_wf := same.kbuf ▸ h.kbuf_wf
    dbuf_wf := same.cfg ▸ dbuf_wf_runByteSteps run h.dbuf_wf
    ok_err := by rw [ok, err]; exact h.ok_err
    errcode_err := by rw [errcode, err]; exact h.errcode_err
    no_error := by rw [err, errsub, errexp, erract]; exact h.no_error
    error_codes := by rw [err, errcode, errsub]; exact h.error_codes
    key_framed := fun _ => framed.sameKeySide same
    pos_width := by rw [at_end.pos]; omega
    cnt_width := by rw [at_end.cnt]; omega
    jint_width := by rw [at_end.jint]; exact jint
    jdist_width := by rw [at_end.jdist]; exact scheduleDistance_lt hmin
    pass_range := at_end.pass
    idx_width := by omega }
  exact inv.complete

/-! ## Every step -/

theorem Inv.issueCommand {w : Word} {s t : State} (h : Inv s) (run : issueCommand w s = .next t) : Inv t := by
  obtain ⟨-, outcome⟩ | ⟨dir, -, run⟩ | ⟨-, rfl⟩ := issueCommand_next_cases run
  · exact h.kdecOutcome outcome
  · exact h.transform run
  · exact h.raiseError (by rfl) _ _

/-- Every host operation keeps the invariant. -/
theorem Inv.hostStep {op : HostOp} {s t : State} (h : Inv s) (run : hostStep op s = .next t) : Inv t := by
  obtain ⟨w, -, run⟩ | ⟨v, -, rfl⟩ | ⟨v, -, rfl⟩ | ⟨off, v, r, -, -, -, -, -, rfl⟩ | ⟨off, r, -, -, rfl⟩ |
    ⟨sp, a, v, -, existing, rfl⟩ | ⟨sp, a, -, -, rfl⟩ | ⟨-, rfl⟩ := hostStep_next run
  · exact h.issueCommand run
  · exact h.withKbufLen v
  · exact h.withDlen v
  · exact h
  · exact h.withHost _
  · exact h.storeCell existing v
  · obtain ⟨host, hl⟩ := exists_loadCell_eq sp a s
    exact hl ▸ h.withHost host
  · exact inv_afterReset _ h.dmax_pos

/-- Settles O46: a step is a host operation, taken off the host's list, or nothing. -/
theorem stepKeepsTheInvariant : Obligations.StepKeepsTheInvariant := by
  unfold Obligations.StepKeepsTheInvariant
  intro s t h run
  obtain ⟨-, idle⟩ | ⟨op, rest, -, taken⟩ := step_cases s
  · cases idle.symm.trans run
    exact h
  · exact Inv.hostStep (h.withHost _) (taken.symm.trans run)

/-! ## Every command ends -/

/-- With every byte of the candidate written KDEC ends in a next state, whatever the bytes (spec/40_key_decode.md R84,
spec/70_reset_and_hazards.md R179). -/
theorem execKdec_completes {s : State} (written : writtenBelow s.kbuf (min s.kbufLen.toNat 65543)) :
    ∃ t, execKdec s = .next t := by
  by_cases overhead : s.kbufLen.toNat < Config.keyOverhead
  · exact ⟨_, execKdec_of_rejects (.truncated overhead)⟩
  have fields : 8 ≤ s.kbufLen.toNat := Nat.le_of_not_lt overhead
  have below_eight (a : Nat) (ha : a < 8) : ∃ v, Memory.read s.kbuf a = some v :=
    Option.isSome_iff_exists.mp (written a (by omega))
  obtain ⟨h, h0⟩ := below_eight 0 (by decide)
  obtain ⟨hi, h1⟩ := below_eight 1 (by decide)
  obtain ⟨lo, h2⟩ := below_eight 2 (by decide)
  by_cases header : h = Config.header
  case neg => exact ⟨_, execKdec_of_rejects (.header overhead h0 header)⟩
  have pre : KeyLenRead s.kbufLen s.kbuf (be16 hi lo) := ⟨overhead, header ▸ h0, hi, lo, h1, h2, rfl⟩
  by_cases length : s.kbufLen.toNat = Config.keyOverhead + (be16 hi lo).toNat
  case neg => exact ⟨_, execKdec_of_rejects (.length pre length)⟩
  by_cases range : (be16 hi lo).toNat < Config.klenMin
  · exact ⟨_, execKdec_of_rejects (.keylenRange pre length range)⟩
  have last : blockAddr (be16 hi lo).toNat < min s.kbufLen.toNat 65543 := by
    have := (be16 hi lo).isLt
    simp only [blockAddr, Config.blockOffset, Config.keyOverhead] at length ⊢
    omega
  obtain ⟨f, hf⟩ := Option.isSome_iff_exists.mp (written _ last)
  by_cases finalizer : f = Config.finalizer
  case neg => exact ⟨_, execKdec_of_rejects (.finalizer pre length range hf finalizer)⟩
  obtain ⟨jf, jl, jumpFields⟩ := exists_jumpFieldsRead (fun a ha => written a (by omega) : writtenBelow s.kbuf 7)
  exact ⟨_, execKdec_of_accepts ⟨pre, length, range, finalizer ▸ hf⟩ jumpFields⟩

/-- The cursor stays inside the key block, so a written key block is enough (spec/42_transform.md R115). -/
theorem visitedWritten_of_block {s : State} (hmin : 4 ≤ s.klen.toNat)
    (written : ∀ j < s.klen.toNat, (Memory.read s.kbuf (7 + j)).isSome) : visitedWritten s :=
  fun t _ => written _ (cursorAt_lt hmin t)

/-- A transform with a framed key, everything below the lengths written, ends in a next state. -/
theorem transform_completes {s : State} (inv : Inv s)
    (keyWritten : writtenBelow s.kbuf (min s.kbufLen.toNat 65543))
    (dataWritten : s.dlen.toNat ≤ s.cfg.dmax.toNat → writtenBelow s.dbuf s.dlen.toNat) (dir : Direction) :
    ∃ t, transform dir s = .next t := by
  rcases Bool.eq_false_or_eq_true s.kvalid with key | noKey
  case inr => exact ⟨_, transform_of_noKey noKey dir⟩
  rcases Nat.lt_or_ge s.cfg.dmax.toNat s.dlen.toNat with beyond | fits
  · exact ⟨_, transform_of_beyondCapacity key beyond dir⟩
  have framed := inv.key_framed key
  have length : s.kbufLen.toNat = 8 + s.klen.toNat := framed.length
  refine (transform_completes_iff ⟨key, framed.klen_min, fits⟩ dir).mpr
    ⟨visitedWritten_of_block framed.klen_min fun j hj => keyWritten _ ?_, dataWritten fits⟩
  have := s.klen.isLt
  omega

/-- Settles O48: KDEC reads inside the candidate, a transform inside its key block and its data. -/
theorem writtenBuffersLetEveryCommandEnd : Obligations.WrittenBuffersLetEveryCommandEnd := by
  unfold Obligations.WrittenBuffersLetEveryCommandEnd
  intro s i inv keyWritten dataWritten
  cases i with
  | kdec => exact execKdec_completes keyWritten
  | enc => exact transform_completes inv keyWritten dataWritten .encrypt
  | dec => exact transform_completes inv keyWritten dataWritten .decrypt

end Sys2Proof.Machine

/-!
PROOFS. What operations do not look at: a transform ignores the result registers (spec/70_reset_and_hazards.md R176),
and no operation looks at the operations the host will issue later (spec/20_memory.md R48). Both are an update of the
state that commutes with every operation concerned.
-/

namespace Sys2Proof.Machine

/-- Change the next state of a result, if there is one. -/
def mapNext (g : State → State) : Result → Result
  | .next s => .next (g s)
  | .fault f => .fault f
  | .refused r => .refused r

@[simp] theorem mapNext_next (g : State → State) (s : State) : mapNext g (.next s) = .next (g s) := rfl

/-- A command's read of a cell is the same for equal buffers, and what follows decides. -/
theorem withCell_map {g : State → State} {sp : Space} {a a' : Nat} {s s' : State} {k k' : Byte → Result}
    (buffer : bufferOf sp s' = bufferOf sp s) (addr : a' = a) (rest : ∀ v, k' v = mapNext g (k v)) :
    withCell sp a' s' k' = mapNext g (withCell sp a s k) := by
  subst addr
  simp only [withCell, buffer]
  cases Memory.read (bufferOf sp s) a' with
  | some v => exact rest v
  | none => rfl

/-! ## Updates that byte steps do not look at -/

/-- Steps b and c of a byte step: the data byte is written, the counter falls, the cursor rises
(spec/42_transform.md R103). -/
def mixAtIdx (dir : Direction) (k d : Byte) (s : State) : State :=
  { s with dbuf := Memory.write s.dbuf s.idx (mixByte dir s.pol d k), cnt := s.cnt - 1, pos := s.pos + 1 }

theorem applyByte_eq (dir : Direction) (k d : Byte) (s : State) :
    applyByte dir k d s = wrapCursor (jumpIfDue (mixAtIdx dir k d s)) := rfl

/-- The update `g` leaves what a byte step reads, and commutes with what it writes. -/
structure UnseenByByteSteps (g : State → State) : Prop where
  kbuf    : ∀ s, (g s).kbuf = s.kbuf
  dbuf    : ∀ s, (g s).dbuf = s.dbuf
  pos     : ∀ s, (g s).pos = s.pos
  idx     : ∀ s, (g s).idx = s.idx
  mix     : ∀ dir k d s, mixAtIdx dir k d (g s) = g (mixAtIdx dir k d s)
  jump    : ∀ s, jumpIfDue (g s) = g (jumpIfDue s)
  wrap    : ∀ s, wrapCursor (g s) = g (wrapCursor s)
  advance : ∀ s, advance (g s) = g (advance s)

theorem UnseenByByteSteps.applyByte {g : State → State} (unseen : UnseenByByteSteps g) (dir : Direction) (k d : Byte)
    (s : State) : applyByte dir k d (g s) = g (applyByte dir k d s) := by
  simp only [applyByte_eq, unseen.mix, unseen.jump, unseen.wrap]

theorem UnseenByByteSteps.byteStep {g : State → State} (unseen : UnseenByByteSteps g) (dir : Direction) (s : State) :
    byteStep dir (g s) = mapNext g (byteStep dir s) := by
  refine withCell_map (unseen.kbuf s) (by simp only [keyByteAddr, unseen.pos]) fun k => ?_
  refine withCell_map (unseen.dbuf s) (by simp only [dataAddr, unseen.idx]) fun d => ?_
  rw [unseen.applyByte, mapNext_next]

theorem UnseenByByteSteps.runByteSteps {g : State → State} (unseen : UnseenByByteSteps g) (dir : Direction) (n : Nat)
    (s : State) : runByteSteps dir n (g s) = mapNext g (runByteSteps dir n s) := by
  induction n generalizing s with
  | zero => rfl
  | succ n ih =>
    simp only [Machine.runByteSteps, unseen.byteStep]
    cases Machine.byteStep dir s with
    | next u =>
      simp only [mapNext_next, unseen.advance]
      exact ih _
    | fault f => rfl
    | refused r => rfl

/-- The result registers are unseen by byte steps (spec/42_transform.md R103). -/
theorem unseen_complete : UnseenByByteSteps complete where
  kbuf    := fun _ => rfl
  dbuf    := fun _ => rfl
  pos     := fun _ => rfl
  idx     := fun _ => rfl
  mix     := fun _ _ _ _ => rfl
  jump    := fun _ => by rw [jumpIfDue, jumpIfDue, apply_ite complete]; rfl
  wrap    := fun _ => by rw [wrapCursor, wrapCursor, apply_ite complete]; rfl
  advance := fun _ => by rw [advance, advance, apply_ite complete, apply_ite complete]; rfl

/-- The host's list is unseen by byte steps. -/
theorem unseen_withPending (ops : List HostOp) : UnseenByByteSteps (withPending ops) where
  kbuf    := fun _ => rfl
  dbuf    := fun _ => rfl
  pos     := fun _ => rfl
  idx     := fun _ => rfl
  mix     := fun _ _ _ _ => rfl
  jump    := fun _ => by rw [jumpIfDue, jumpIfDue, apply_ite (withPending ops)]; rfl
  wrap    := fun _ => by rw [wrapCursor, wrapCursor, apply_ite (withPending ops)]; rfl
  advance := fun _ => by rw [advance, advance, apply_ite (withPending ops), apply_ite (withPending ops)]; rfl

/-! ## A transform starts afresh -/

/-- Completing before the byte steps as well as after them makes no difference. -/
theorem finishTransform_complete (dir : Direction) (n : Nat) (s : State) :
    finishTransform (runByteSteps dir n (complete s)) = finishTransform (runByteSteps dir n s) := by
  rw [unseen_complete.runByteSteps]
  cases runByteSteps dir n s <;> rfl

/-- Settles O25: the start of a transform writes every internal register, and the result registers are unseen by the
byte steps. -/
theorem transformStartsAfresh : Obligations.TransformStartsAfresh := by
  unfold Obligations.TransformStartsAfresh
  intro s pos cnt jint jdist pass idx pol ok err code sub exp act i ready hi
  obtain ⟨dir, run⟩ := exists_transform_of_enc_or_dec hi
  rw [run, run, transform_of_passed ready.key ready.dlen, ← finishTransform_complete,
    transform_of_passed (s := { s with
      pos := pos, cnt := cnt, pol := pol, jint := jint, jdist := jdist, pass := pass, idx := idx
      ok := ok, err := err, errcode := code, errsub := sub, errexp := exp, erract := act }) ready.key ready.dlen,
    ← finishTransform_complete]
  rfl

/-! ## The host's list -/

theorem transform_withPending (dir : Direction) (ops : List HostOp) (s : State) :
    transform dir (withPending ops s) = mapNext (withPending ops) (transform dir s) := by
  have finish (r : Result) :
      finishTransform (mapNext (withPending ops) r) = mapNext (withPending ops) (finishTransform r) := by
    cases r <;> rfl
  simp only [transform, apply_ite (mapNext (withPending ops)), ← finish, ← (unseen_withPending ops).runByteSteps]
  rfl

theorem execKdec_withPending (ops : List HostOp) (s : State) :
    execKdec (withPending ops s) = mapNext (withPending ops) (execKdec s) := by
  unfold execKdec
  simp only [apply_ite (mapNext (withPending ops))]
  refine if_congr Iff.rfl rfl (withCell_map rfl rfl fun h => ?_)
  rw [apply_ite (mapNext (withPending ops))]
  refine if_congr Iff.rfl rfl (withCell_map rfl rfl fun hi => withCell_map rfl rfl fun lo => ?_)
  simp only [apply_ite (mapNext (withPending ops))]
  refine if_congr Iff.rfl rfl (if_congr Iff.rfl rfl (withCell_map rfl rfl fun f => ?_))
  rw [apply_ite (mapNext (withPending ops))]
  refine if_congr Iff.rfl rfl ?_
  exact withCell_map rfl rfl fun jf => withCell_map rfl rfl fun b2 => withCell_map rfl rfl fun b1 =>
    withCell_map rfl rfl fun b0 => rfl

theorem issueCommand_withPending (w : Word) (ops : List HostOp) (s : State) :
    issueCommand w (withPending ops s) = mapNext (withPending ops) (issueCommand w s) := by
  unfold issueCommand
  split
  next i _ =>
    cases i with
    | kdec => exact execKdec_withPending ops s
    | enc => exact transform_withPending .encrypt ops s
    | dec => exact transform_withPending .decrypt ops s
  next => rfl

theorem loadCell_withPending (sp : Space) (a : Nat) (ops : List HostOp) (s : State) :
    loadCell sp a (withPending ops s) = withPending ops (loadCell sp a s) := by
  have same : bufferOf sp (withPending ops s) = bufferOf sp s := by cases sp <;> rfl
  cases h : Memory.read (bufferOf sp s) a with
  | some v => rw [loadCell_some h, loadCell_some (same ▸ h)]; rfl
  | none => rw [loadCell_none h, loadCell_none (same ▸ h)]; rfl

/-- No operation looks at the operations the host will issue later (spec/20_memory.md R48). -/
theorem hostStep_withPending (op : HostOp) (ops : List HostOp) (s : State) :
    hostStep op (withPending ops s) = mapNext (withPending ops) (hostStep op s) := by
  cases op with
  | writeReg off v =>
    dsimp only [hostStep]
    cases regAt off with
    | none => rfl
    | some r =>
      cases r with
      | cmd => exact issueCommand_withPending v ops s
      | _ => rfl
  | readReg off =>
    dsimp only [hostStep]
    cases regAt off with
    | none => rfl
    | some r => cases r <;> rfl
  | writeByte sp a v =>
    simp only [hostStep, apply_ite (mapNext (withPending ops))]
    cases sp <;> rfl
  | readByte sp a =>
    simp only [hostStep, loadCell_withPending, apply_ite (mapNext (withPending ops))]
    cases sp <;> rfl
  | reset => rfl

/-- A step with an operation in front of the host's list is that operation, the rest of the list kept. -/
theorem step_withPending_cons (op : HostOp) (rest : List HostOp) (s : State) :
    step (withPending (op :: rest) s) = mapNext (withPending rest) (hostStep op s) := by
  rw [← hostStep_withPending]
  have front : (withPending (op :: rest) s).host.pending = op :: rest := rfl
  rw [step, takeOp_cons front]
  rfl

/-- Settles O44: by induction over the operations in front of the list. -/
theorem stepsRunPendingOperationsInOrder : Obligations.StepsRunPendingOperationsInOrder := by
  unfold Obligations.StepsRunPendingOperationsInOrder
  intro ops rest s
  change Host.Core.run core ops.length (withPending (ops ++ rest) s) = mapNext (withPending rest) (runOps ops s)
  induction ops generalizing s with
  | nil => rfl
  | cons op ops ih =>
    have first : core.step (withPending (op :: ops ++ rest) s) =
        mapNext (withPending (ops ++ rest)) (hostStep op s) := step_withPending_cons op (ops ++ rest) s
    simp only [List.length_cons, Host.Core.run, first, runOps]
    cases hostStep op s with
    | next t => exact ih t
    | fault f => rfl
    | refused r => rfl

end Sys2Proof.Machine

/-!
PROOFS. Host programs (spec/30_encoding.md R69): the macros LOADK, LOADD and READD, and bringing the block up
(spec/70_reset_and_hazards.md R172).
-/

namespace Sys2Proof.Machine

/-! ## Lists of host operations -/

@[simp] theorem runOps_nil (s : State) : runOps [] s = .next s := rfl

/-- Running a list whose first operation goes on is running the rest after it. -/
theorem runOps_cons {op : HostOp} {s t : State} (h : hostStep op s = .next t) (ops : List HostOp) :
    runOps (op :: ops) s = runOps ops t := by
  rw [runOps, h]

/-- Running a list whose first part goes on is running the rest after it. -/
theorem runOps_append {ops : List HostOp} {s t : State} (h : runOps ops s = .next t) (ops' : List HostOp) :
    runOps (ops ++ ops') s = runOps ops' t := by
  induction ops generalizing s with
  | nil => cases h; rfl
  | cons op ops ih =>
    rw [runOps] at h
    split at h
    next u hu => rw [List.cons_append, runOps_cons hu, ih h]
    · cases h
    · cases h

/-- A command at the end of a host program is that command. -/
theorem runOps_issueOp {i : Instr} {s t : State} (h : exec i s = .next t) : runOps [issueOp i] s = .next t :=
  runOps_cons ((hostStep_issueOp i s).trans h) []

/-! ## LOADK and LOADD -/

/-- A buffer after the bytes are written from cell `base` on, one by one. -/
def Memory.writeFrom (m : Memory) (base : Nat) : List Byte → Memory
  | [] => m
  | b :: bs => (Memory.write m base b).writeFrom (base + 1) bs

theorem Memory.read_writeFrom_outside (m : Memory) (base : Nat) (bytes : List Byte) {a : Nat}
    (outside : a < base ∨ base + bytes.length ≤ a) : Memory.read (m.writeFrom base bytes) a = Memory.read m a := by
  induction bytes generalizing m base with
  | nil => rfl
  | cons b bs ih =>
    rw [List.length_cons] at outside
    rw [Memory.writeFrom, ih _ _ (by omega), Memory.read_write_other _ _ _ _ (by omega)]

theorem holdsAt_writeFrom (m : Memory) (base : Nat) (bytes : List Byte) :
    holdsAt (m.writeFrom base bytes) base bytes := by
  induction bytes generalizing m base with
  | nil => exact holdsAt_nil _ _
  | cons b bs ih =>
    refine (holdsAt_cons ..).mpr ⟨?_, ih _ _⟩
    rw [Memory.writeFrom, Memory.read_writeFrom_outside _ _ _ (by omega), Memory.read_write_same]

/-- The byte writes of LOADD. -/
theorem runOps_storeOps_dbuf {s : State} {base : Nat} {bytes : List Byte}
    (fits : base + bytes.length ≤ s.cfg.dmax.toNat) :
    runOps (storeOps .dbuf base bytes) s = .next { s with dbuf := s.dbuf.writeFrom base bytes } := by
  induction bytes generalizing s base with
  | nil => rfl
  | cons b bs ih =>
    rw [List.length_cons] at fits
    have existing : base < capacityOf .dbuf s := by rw [capacityOf]; omega
    have rest : base + 1 + bs.length ≤ (storeCell .dbuf base b s).cfg.dmax.toNat := by
      rw [Nat.add_assoc, Nat.add_comm 1]
      exact fits
    rw [storeOps, runOps_cons (hostStep_writeByte existing b), ih rest]
    rfl

/-- The byte writes of LOADK, with KVALID withdrawn, as the length written last withdraws it anyway. -/
theorem runOps_storeOps_kbuf {s : State} {base : Nat} {bytes : List Byte} (fits : base + bytes.length ≤ 65543) :
    ∃ t, runOps (storeOps .kbuf base bytes) s = .next t ∧
      withdrawKey t = withdrawKey { s with kbuf := s.kbuf.writeFrom base bytes } := by
  induction bytes generalizing s base with
  | nil => exact ⟨s, rfl, rfl⟩
  | cons b bs ih =>
    rw [List.length_cons] at fits
    have existing : base < capacityOf .kbuf s := by
      change base < 65543
      omega
    obtain ⟨t, ht, withdrawn⟩ := ih (s := storeCell .kbuf base b s) (base := base + 1) (by omega)
    exact ⟨t, by rw [storeOps, runOps_cons (hostStep_writeByte existing b), ht], withdrawn⟩

/-- LOADK (spec/30_encoding.md R69). -/
theorem runOps_loadK {s : State} {bytes : List Byte} (fits : bytes.length ≤ 65543) :
    runOps (loadK bytes) s = .next { s with
      kbuf := s.kbuf.writeFrom 0 bytes, kbufLen := BitVec.ofNat 32 bytes.length, kvalid := false } := by
  obtain ⟨t, ht, withdrawn⟩ := runOps_storeOps_kbuf (s := s) (base := 0) (bytes := bytes) (by omega)
  rw [loadK, runOps_append ht, runOps_cons (hostStep_writeOp .kbufLen _ t), runOps_nil]
  exact congrArg (fun u : State => Host.Outcome.next { u with kbufLen := BitVec.ofNat 32 bytes.length }) withdrawn

/-- LOADD (spec/30_encoding.md R69). -/
theorem runOps_loadD {s : State} {bytes : List Byte} (fits : bytes.length ≤ s.cfg.dmax.toNat) :
    runOps (loadD bytes) s = .next { s with
      dbuf := s.dbuf.writeFrom 0 bytes, dlen := BitVec.ofNat 32 bytes.length } := by
  rw [loadD, runOps_append (runOps_storeOps_dbuf (by omega)), runOps_cons (hostStep_writeOp .dlen _ _)]
  rfl

/-- Settles O42: the byte writes and then the length. -/
theorem loadMacrosFillTheBuffers : Obligations.LoadMacrosFillTheBuffers := by
  unfold Obligations.LoadMacrosFillTheBuffers
  intro s bytes
  refine ⟨fun fits => ⟨_, runOps_loadK fits, holdsAt_writeFrom _ _ _, fun a ha => ?_⟩,
    fun fits => ⟨_, runOps_loadD fits, holdsAt_writeFrom _ _ _, fun a ha => ?_⟩⟩
  · exact Memory.read_writeFrom_outside _ _ _ (.inr (by omega))
  · exact Memory.read_writeFrom_outside _ _ _ (.inr (by omega))

/-! ## READD -/

/-- `s` after the host has recorded some answers, oldest first. -/
def answerAll (as : List HostAnswer) (s : State) : State :=
  { s with host := { s.host with answers := as.reverse ++ s.host.answers } }

theorem answerAll_cons (a : HostAnswer) (as : List HostAnswer) (s : State) :
    answerAll (a :: as) s = answerAll as (answer a s) := by
  simp [answerAll, answer]

/-- The byte reads of READD, from cell `base` on. -/
theorem runOps_readByte_range' {s : State} {base : Nat} {bytes : List Byte}
    (fits : base + bytes.length ≤ s.cfg.dmax.toNat) (held : holdsAt s.dbuf base bytes) :
    runOps ((List.range' base bytes.length).map (HostOp.readByte .dbuf)) s =
      .next (answerAll (bytes.map .byte) s) := by
  induction bytes generalizing s base with
  | nil => rfl
  | cons b bs ih =>
    rw [List.length_cons] at fits
    obtain ⟨first, rest⟩ := (holdsAt_cons ..).mp held
    have existing : base < capacityOf .dbuf s := by rw [capacityOf]; omega
    have read : hostStep (.readByte .dbuf base) s = .next (answer (.byte b) s) := by
      rw [hostStep_readByte existing, loadCell_some (sp := .dbuf) first]
    have fits' : base + 1 + bs.length ≤ (answer (.byte b) s).cfg.dmax.toNat := by
      rw [answer_cfg]
      omega
    rw [List.length_cons, List.range'_succ, List.map_cons, runOps_cons read, ih fits' rest, List.map_cons,
      answerAll_cons]

/-- READD answers the bytes in order (spec/30_encoding.md R69). -/
theorem runOps_readD {s : State} {bytes : List Byte} (fits : bytes.length ≤ s.cfg.dmax.toNat)
    (held : holdsAt s.dbuf 0 bytes) :
    runOps (readD bytes.length) s = .next (answerAll (bytes.map .byte) s) := by
  rw [readD, List.range_eq_range']
  exact runOps_readByte_range' (by omega) held

/-- Settles O43: the answers are recorded newest first. -/
theorem readdReturnsTheData : Obligations.ReaddReturnsTheData := by
  unfold Obligations.ReaddReturnsTheData
  exact fun s bytes fits held => runOps_readD fits held

/-! ## Bring-up -/

/-- A length within the capacity is what DLEN holds. -/
theorem toNat_ofNat_word {n : Nat} (h : n < 2 ^ 32) : (BitVec.ofNat 32 n).toNat = n :=
  Nat.mod_eq_of_lt h

/-- The block after `LOADK key; KDEC` on the bytes of KeyEncode (spec/30_encoding.md R71). -/
def keyLoaded (jf : Byte) (jl : BitVec 24) (blk : List Byte) (s : State) : State :=
  complete { s with
    kbuf := s.kbuf.writeFrom 0 (keyEncode jf jl blk), kbufLen := BitVec.ofNat 32 (8 + blk.length)
    klen := BitVec.ofNat 16 blk.length, jfreq := jf, jlen := jl, kvalid := true }

theorem runOps_loadK_kdec {jf : Byte} {jl : BitVec 24} {blk : List Byte} (hmin : 4 ≤ blk.length)
    (hmax : blk.length ≤ 65535) (s : State) :
    runOps (loadK (keyEncode jf jl blk) ++ [issueOp .kdec]) s = .next (keyLoaded jf jl blk s) := by
  have length := keyEncode_length jf jl blk
  rw [runOps_append (runOps_loadK (by omega)), length]
  exact runOps_issueOp <| execKdec_keyEncode hmin hmax rfl (holdsAt_writeFrom _ _ _)

theorem klen_keyLoaded (jf : Byte) (jl : BitVec 24) {blk : List Byte} (hmax : blk.length ≤ 65535) (s : State) :
    (keyLoaded jf jl blk s).klen.toNat = blk.length :=
  toNat_ofNat_klen hmax

theorem block_keyLoaded (jf : Byte) (jl : BitVec 24) (blk : List Byte) (s : State) :
    holdsAt (keyLoaded jf jl blk s).kbuf Config.blockOffset blk := by
  have held := holdsAt_writeFrom s.kbuf 0 (keyEncode jf jl blk)
  obtain ⟨-, -, -, -, -, -, -, block, -⟩ := (holdsAt_keyEncode ..).mp held
  exact block

/-- Every cell of a loaded key block holds a value. -/
theorem blockWritten_keyLoaded (jf : Byte) (jl : BitVec 24) {blk : List Byte} (hmax : blk.length ≤ 65535) (s : State) :
    ∀ j < (keyLoaded jf jl blk s).klen.toNat, (Memory.read (keyLoaded jf jl blk s).kbuf (7 + j)).isSome := by
  intro j hj
  rw [klen_keyLoaded jf jl hmax] at hj
  exact Option.isSome_of_eq_some (block_keyLoaded jf jl blk s j hj)

/-- Bytes held from cell 0 on are written. -/
theorem writtenBelow_of_holdsAt {m : Memory} {bytes : List Byte} (h : holdsAt m 0 bytes) :
    writtenBelow m bytes.length := by
  intro i hi
  have cell := h i hi
  rw [Nat.zero_add] at cell
  exact Option.isSome_of_eq_some cell

/-- The block after `LOADD data`. -/
def dataLoaded (data : List Byte) (s : State) : State :=
  { s with dbuf := s.dbuf.writeFrom 0 data, dlen := BitVec.ofNat 32 data.length }

theorem dlen_dataLoaded {data : List Byte} {s : State} (fits : data.length ≤ s.cfg.dmax.toNat) :
    (dataLoaded data s).dlen.toNat = data.length :=
  toNat_ofNat_word (fits.trans_lt s.cfg.dmax.isLt)

theorem transformReady_dataLoaded {data : List Byte} {s : State} (fits : data.length ≤ s.cfg.dmax.toNat)
    (key : s.kvalid = true) (hmin : 4 ≤ s.klen.toNat) : TransformReady (dataLoaded data s) :=
  ⟨key, hmin, (dlen_dataLoaded fits).trans_le fits⟩

/-- With a decoded key whose block is written, a transform of loaded data completes. -/
theorem transform_dataLoaded_completes {data : List Byte} {s : State} (fits : data.length ≤ s.cfg.dmax.toNat)
    (key : s.kvalid = true) (hmin : 4 ≤ s.klen.toNat)
    (block : ∀ j < s.klen.toNat, (Memory.read s.kbuf (7 + j)).isSome) (dir : Direction) :
    completes (transform dir (dataLoaded data s)) := by
  have written : writtenBelow (dataLoaded data s).dbuf (dataLoaded data s).dlen.toNat := by
    rw [dlen_dataLoaded fits]
    exact writtenBelow_of_holdsAt (holdsAt_writeFrom _ _ _)
  exact (transform_completes_iff (transformReady_dataLoaded fits key hmin) dir).mpr
    ⟨visitedWritten_of_block (s := dataLoaded data s) hmin block, written⟩

/-- STATUS of a block with a decoded key whose last command completed (spec/10_state.md R27). -/
theorem status_eq_three {s : State} (key : s.kvalid = true) (record : RecordsSuccess s) :
    readRegister .status s = 3 := by
  rw [readRegister, statusWord, key, record.ok, record.err]
  rfl

/-- A transform past its checks that goes on records success. -/
theorem recordsSuccess_transform {dir : Direction} {s t : State} (ready : TransformReady s)
    (h : transform dir s = .next t) : RecordsSuccess t := by
  obtain ⟨u, -, rfl⟩ := transform_next_of_passed ready.key ready.dlen h
  exact recordsSuccess_complete u

/-- The host reads the stored fields of a decoded key (spec/10_state.md R13 to R15). -/
theorem readRegister_keyFields {s : State} (key : s.kvalid = true) :
    readRegister .klen s = BitVec.ofNat 32 s.klen.toNat ∧ readRegister .jfreq s = BitVec.ofNat 32 s.jfreq.toNat ∧
      readRegister .jlen s = BitVec.ofNat 32 s.jlen.toNat := by
  simp only [BitVec.ofNat_toNat]
  exact ⟨if_pos key, if_pos key, if_pos key⟩

/-- With a decoded key whose block is written, ENC and then DEC of loaded data both succeed, and the data is back. -/
theorem roundTrip_dataLoaded {data : List Byte} {s : State} (fits : data.length ≤ s.cfg.dmax.toNat)
    (key : s.kvalid = true) (hmin : 4 ≤ s.klen.toNat)
    (block : ∀ j < s.klen.toNat, (Memory.read s.kbuf (7 + j)).isSome) :
    ∃ t u, transform .encrypt (dataLoaded data s) = .next t ∧ transform .decrypt t = .next u ∧
      readRegister .status t = 3 ∧ readRegister .status u = 3 ∧ holdsAt u.dbuf 0 data ∧
      SameKeySide (dataLoaded data s) u := by
  have ready := transformReady_dataLoaded fits key hmin
  obtain ⟨t, enc⟩ := transform_dataLoaded_completes fits key hmin block .encrypt
  obtain ⟨u, dec, restored, same⟩ := transform_opposite (dir' := .decrypt) (by decide) ready enc
  have ready' : TransformReady t := (sameKeySide_transform enc).ready ready
  refine ⟨t, u, enc, dec, status_eq_three ready'.key (recordsSuccess_transform ready enc),
    status_eq_three (same.kvalid.trans key) (recordsSuccess_transform ready' dec), fun i hi => ?_, same⟩
  rw [restored]
  exact holdsAt_writeFrom _ 0 data i hi

/-- Settles O49: after the bring-up the block is ready with every cell written, so ENC goes on, and DEC undoes it. -/
theorem bringUpThenRoundTrip : Obligations.BringUpThenRoundTrip := by
  unfold Obligations.BringUpThenRoundTrip
  intro s jf jl blk data hmin hmax fits
  have klen := klen_keyLoaded jf jl hmax (resetBlock s)
  obtain ⟨t, u, enc, dec, statusT, statusU, held, same⟩ :=
    roundTrip_dataLoaded (s := keyLoaded jf jl blk (resetBlock s)) fits rfl (hmin.trans_eq klen.symm)
      (blockWritten_keyLoaded jf jl hmax _)
  have reset : runOps [.reset] s = .next (resetBlock s) := rfl
  have loaded : runOps (loadD data) (keyLoaded jf jl blk (resetBlock s)) =
      .next (dataLoaded data (keyLoaded jf jl blk (resetBlock s))) := runOps_loadD fits
  obtain ⟨klenU, jfreqU, jlenU⟩ := readRegister_keyFields (s := u) same.kvalid
  refine ⟨t, u, ?run, statusT, runOps_issueOp dec, statusU, held, ?klen, ?jfreq, ?jlen⟩
  case run =>
    rw [List.append_assoc, List.append_assoc, List.append_assoc, runOps_append reset,
      ← List.append_assoc (loadK _), runOps_append (runOps_loadK_kdec hmin hmax _), runOps_append loaded]
    exact runOps_issueOp enc
  case klen => rw [klenU, same.klen]; exact congrArg _ klen
  case jfreq => rw [jfreqU, same.jfreq]; rfl
  case jlen => rw [jlenU, same.jlen]; rfl

end Sys2Proof.Machine

/-!
PROOFS. The host procedures that make, load and use a Key (spec/43_host_procedures.md R120 to R124, R132;
spec/30_encoding.md R69). Outside the block.
-/

namespace Sys2Proof.Machine

/-! ## Reads and what they answer -/

/-- What was recorded between two states, where the second's record extends the first's. -/
theorem newAnswers_eq {s t : State} {as : List HostAnswer} (h : t.host.answers = as.reverse ++ s.host.answers) :
    newAnswers s t = as := by
  simp [newAnswers, h]

theorem newAnswers_answerAll (as : List HostAnswer) (s : State) : newAnswers s (answerAll as s) = as :=
  newAnswers_eq rfl

/-- The values of some registers as a read answers them. -/
def registerAnswers (rs : List RegName) (s : State) : List HostAnswer := rs.map fun r => .reg (readRegister r s)

/-- Recording an answer changes no register. -/
theorem registerAnswers_answer (rs : List RegName) (a : HostAnswer) (s : State) :
    registerAnswers rs (answer a s) = registerAnswers rs s := by
  refine List.map_congr_left fun r _ => ?_
  cases r <;> rfl

/-- Reading some registers records their values and changes nothing else (spec/10_state.md R12). -/
theorem runOps_reads (rs : List RegName) (s : State) :
    runOps (rs.map readOp) s = .next (answerAll (registerAnswers rs s) s) := by
  induction rs generalizing s with
  | nil => rfl
  | cons r rs ih =>
    rw [List.map_cons, runOps_cons (hostStep_readOp r s), ih, registerAnswers_answer, registerAnswers,
      registerAnswers, List.map_cons, answerAll_cons]

theorem runHost_reads (rs : List RegName) (s : State) :
    runHost (rs.map readOp) s = .done (registerAnswers rs s) (answerAll (registerAnswers rs s) s) := by
  rw [runHost_done (runOps_reads rs s), newAnswers_answerAll]

/-- The registers of the error record, in the order in which the host reads them (spec/30_encoding.md R69). -/
def recordRegisters : List RegName := [.errcode, .errsub, .errexp, .erract]

/-- The registers of the decoded key, in the order in which the host reads them (spec/30_encoding.md R69). -/
def fieldRegisters : List RegName := [.klen, .jfreq, .jlen]

theorem errorRecordReads_eq : errorRecordReads = recordRegisters.map readOp := rfl
theorem keyFieldReads_eq : keyFieldReads = fieldRegisters.map readOp := rfl

/-- The state after the host has read STATUS. -/
def statusRead (s : State) : State := answer (.reg (readRegister .status s)) s

/-- The state after the host has read STATUS and then some registers. -/
def statusAndRead (rs : List RegName) (s : State) : State :=
  answerAll (registerAnswers rs (statusRead s)) (statusRead s)

/-- A failure is reported with the four registers of the error record. -/
theorem failWithRecord_eq {α : Type} (s : State) :
    (failWithRecord s : ProcEnd State α) =
      .failed (blockReport (s.errcode.setWidth 32) (s.errsub.setWidth 32) s.errexp s.erract)
        (answerAll (registerAnswers recordRegisters s) s) := by
  rw [failWithRecord, errorRecordReads_eq, runHost_reads]
  rfl

/-- Operations without answers, then a read of STATUS: the host goes on or reads the error record, as ERR says
(spec/60_exceptions.md R153). -/
theorem runToStatus_eq {ops : List HostOp} {s u : State} (run : runOps ops s = .next u) (silent : u.host = s.host) :
    runToStatus (ops ++ [readOp .status]) s =
      if u.err then failWithRecord (statusRead u) else .done () (statusRead u) := by
  have run' : runOps (ops ++ [readOp .status]) s = .next (statusRead u) := by
    rw [runOps_append run, runOps_cons (hostStep_readOp .status u)]
    rfl
  have answers : newAnswers s (statusRead u) = [.reg (readRegister .status u)] :=
    newAnswers_eq (by rw [statusRead, answer_host, silent]; rfl)
  obtain ⟨-, -, err, -⟩ := statusBits u
  rw [runToStatus, runHost_done run', answers, ProcEnd.andThen_done]
  exact if_congr (iff_of_eq (congrArg (· = true) err)) rfl rfl

/-! ## decode_key -/

/-- The block after `LOADK bytes` (spec/30_encoding.md R69). -/
def candidateLoaded (bytes : List Byte) (s : State) : State :=
  { s with kbuf := s.kbuf.writeFrom 0 bytes, kbufLen := BitVec.ofNat 32 bytes.length, kvalid := false }

/-- A loaded candidate is written, so KDEC ends in a next state. -/
theorem execKdec_candidateLoaded {bytes : List Byte} (fits : bytes.length ≤ 65543) (s : State) :
    ∃ u, execKdec (candidateLoaded bytes s) = .next u := by
  refine execKdec_completes fun a ha => ?_
  have hlen : (BitVec.ofNat 32 bytes.length).toNat = bytes.length := toNat_ofNat_word (by omega)
  refine writtenBelow_of_holdsAt (holdsAt_writeFrom s.kbuf 0 bytes) a ?_
  change a < min (BitVec.ofNat 32 bytes.length).toNat 65543 at ha
  omega

theorem decodeKeyOps_eq (bytes : List Byte) :
    decodeKeyOps bytes = loadK bytes ++ [issueOp .kdec] ++ [readOp .status] := by
  rw [List.append_assoc]
  rfl

/-- The operations of decode_key up to KDEC. -/
theorem runOps_loadK_then_kdec {bytes : List Byte} (fits : bytes.length ≤ 65543) {s u : State}
    (kdec : execKdec (candidateLoaded bytes s) = .next u) :
    runOps (loadK bytes ++ [issueOp .kdec]) s = .next u := by
  rw [runOps_append (runOps_loadK fits)]
  exact runOps_issueOp kdec

/-- decode_key up to its STATUS read. -/
theorem runOps_decodeKeyOps {bytes : List Byte} (fits : bytes.length ≤ 65543) {s u : State}
    (kdec : execKdec (candidateLoaded bytes s) = .next u) :
    runOps (decodeKeyOps bytes) s = .next (statusRead u) := by
  rw [decodeKeyOps_eq, runOps_append (runOps_loadK_then_kdec fits kdec), runOps_cons (hostStep_readOp .status u)]
  rfl

/-- decode_key answers the fields of the decoded key. -/
theorem decodeKey_of_ok {bytes : List Byte} (fits : bytes.length ≤ 65543) {s u : State}
    (kdec : execKdec (candidateLoaded bytes s) = .next u) (ok : u.err = false) (key : u.kvalid = true) :
    decodeKey bytes s =
      .done { klen := BitVec.ofNat 32 u.klen.toNat, jfreq := BitVec.ofNat 32 u.jfreq.toNat
              jlen := BitVec.ofNat 32 u.jlen.toNat }
        (statusAndRead fieldRegisters u) := by
  have silent : u.host = s.host := (KdecOutcome.of_execKdec kdec).sameButRecordAndKey.host
  obtain ⟨klen, jfreq, jlen⟩ := readRegister_keyFields (s := statusRead u) key
  rw [decodeKey, decodeKeyOps_eq, runToStatus_eq (runOps_loadK_then_kdec fits kdec) silent,
    if_neg (by simp [ok]), ProcEnd.andThen_done, keyFieldReads_eq, runHost_reads, ProcEnd.andThen_done]
  exact congrArg (ProcEnd.done · _) (congr (congr (congrArg KeyFields.mk klen) jfreq) jlen)

/-- decode_key reports the error record of the failed KDEC. -/
theorem decodeKey_of_err {bytes : List Byte} (fits : bytes.length ≤ 65543) {s u : State}
    (kdec : execKdec (candidateLoaded bytes s) = .next u) (failed : u.err = true) :
    decodeKey bytes s =
      .failed (blockReport (u.errcode.setWidth 32) (u.errsub.setWidth 32) u.errexp u.erract)
        (statusAndRead recordRegisters u) := by
  have silent : u.host = s.host := (KdecOutcome.of_execKdec kdec).sameButRecordAndKey.host
  rw [decodeKey, decodeKeyOps_eq, runToStatus_eq (runOps_loadK_then_kdec fits kdec) silent, if_pos failed,
    failWithRecord_eq, ProcEnd.andThen_failed]
  rfl

/-- Settles O51: KDEC ends in a next state, and its flags tell which of the two expansions is run. -/
theorem decodeKeyAnswersFieldsOrDiagnostic : Obligations.DecodeKeyAnswersFieldsOrDiagnostic := by
  unfold Obligations.DecodeKeyAnswersFieldsOrDiagnostic
  intro s bytes fits
  obtain ⟨u, kdec⟩ := execKdec_candidateLoaded fits s
  have outcome := KdecOutcome.of_execKdec kdec
  have same := outcome.sameButRecordAndKey
  have held : holdsAt u.kbuf 0 bytes := same.kbuf ▸ holdsAt_writeFrom s.kbuf 0 bytes
  have loaded := runOps_decodeKeyOps fits kdec
  obtain ⟨key, -, noErr⟩ | ⟨noKey, -, err⟩ := outcome.flags
  · have answered := decodeKey_of_ok fits kdec noErr key
    refine ⟨statusAndRead fieldRegisters u, same.kbufLen, held, .inl ⟨key, noErr, ?_, answered⟩⟩
    rw [runOps_append loaded]
    exact runOps_reads fieldRegisters (statusRead u)
  · have reported := decodeKey_of_err fits kdec err
    refine ⟨statusAndRead recordRegisters u, same.kbufLen, held, .inr ⟨noKey, err, ?_, reported.trans ?_⟩⟩
    · rw [runOps_append loaded]
      exact runOps_reads recordRegisters (statusRead u)
    · cases outcome with
      | rejected _ => simp only [BitVec.ofNat_toNat]; rfl
      | accepted _ _ => cases err

/-! ## convert_key and load_key -/

/-- convert_key of a passphrase of legal length (spec/43_host_procedures.md R123). -/
theorem convertKey_of_legal {p : List Byte} (h4 : 4 ≤ p.length) (hmax : p.length ≤ 65535) :
    convertKey p = .ok (keyEncode p[0] (be24 p[1] p[2] p[3]) p) := by
  have legal : ¬ (p.length < Config.klenMin ∨ Config.klenMax < p.length) :=
    not_or.mpr ⟨Nat.not_lt.mpr h4, Nat.not_lt.mpr hmax⟩
  match p, h4 with
  | b0 :: b1 :: b2 :: b3 :: rest, _ =>
    rw [convertKey, if_neg legal]
    rfl

/-- load_key of the bytes of KeyEncode ends with the key decoded (spec/43_host_procedures.md R124). -/
theorem loadKey_keyEncode {blk : List Byte} (hmin : 4 ≤ blk.length) (hmax : blk.length ≤ 65535) (jf : Byte)
    (jl : BitVec 24) (s : State) :
    loadKey (some (keyEncode jf jl blk)) s =
      .done (keyEncode jf jl blk) (statusAndRead fieldRegisters (keyLoaded jf jl blk s)) := by
  have length := keyEncode_length jf jl blk
  have fits : (keyEncode jf jl blk).length ≤ 65543 := by omega
  have kdec : execKdec (candidateLoaded (keyEncode jf jl blk) s) = .next (keyLoaded jf jl blk s) := by
    rw [candidateLoaded, length]
    exact execKdec_keyEncode hmin hmax rfl (holdsAt_writeFrom _ _ _)
  have loadable : ¬ Config.kcap < (keyEncode jf jl blk).length := Nat.not_lt.mpr fits
  rw [loadKey, if_neg loadable, decodeKey_of_ok fits kdec rfl rfl, ProcEnd.andThen_done]

/-- Settles O50: KDEC reads back what KeyEncode wrote. -/
theorem convertedKeyDecodes : Obligations.ConvertedKeyDecodes := by
  unfold Obligations.ConvertedKeyDecodes
  intro s p h4 hmax
  have klen := klen_keyLoaded p[0] (be24 p[1] p[2] p[3]) hmax s
  refine ⟨_, _, convertKey_of_legal h4 hmax, loadKey_keyEncode h4 hmax _ _ s, rfl, klen, rfl, be24_toNat .., ?_⟩
  intro j hj
  rw [keyBlock, if_pos ⟨rfl, lt_of_lt_of_eq hj klen.symm⟩]
  exact block_keyLoaded _ _ p s j hj

/-! ## transform -/

theorem exec_commandOf (dir : Direction) (s : State) : exec (commandOf dir) s = transform dir s := by
  cases dir <;> rfl

theorem transformToStatusOps_eq (dir : Direction) (data : List Byte) :
    transformToStatusOps dir data = loadD data ++ [issueOp (commandOf dir)] ++ [readOp .status] := by
  rw [List.append_assoc]
  rfl

/-- The operations of transform up to the command. -/
theorem runOps_loadD_then_command {dir : Direction} {data : List Byte} {s u : State}
    (fits : data.length ≤ s.cfg.dmax.toNat) (run : transform dir (dataLoaded data s) = .next u) :
    runOps (loadD data ++ [issueOp (commandOf dir)]) s = .next u := by
  rw [runOps_append (runOps_loadD fits)]
  exact runOps_issueOp ((exec_commandOf dir _).trans run)

/-- transform up to its STATUS read. -/
theorem runOps_transformToStatusOps {dir : Direction} {data : List Byte} {s u : State}
    (fits : data.length ≤ s.cfg.dmax.toNat) (run : transform dir (dataLoaded data s) = .next u) :
    runOps (transformToStatusOps dir data) s = .next (statusRead u) := by
  rw [transformToStatusOps_eq, runOps_append (runOps_loadD_then_command fits run),
    runOps_cons (hostStep_readOp .status u)]
  rfl

/-- transform up to its STATUS read, as the host sees it. -/
theorem runToStatus_transform {dir : Direction} {data : List Byte} {s u : State}
    (fits : data.length ≤ s.cfg.dmax.toNat) (run : transform dir (dataLoaded data s) = .next u) :
    runToStatus (transformToStatusOps dir data) s =
      if u.err then failWithRecord (statusRead u) else .done () (statusRead u) := by
  rw [transformToStatusOps_eq]
  exact runToStatus_eq (runOps_loadD_then_command fits run) (sameKeySide_transform run).host

/-- Written cells hold some bytes. -/
theorem exists_holdsAt {m : Memory} {n : Nat} (written : writtenBelow m n) :
    ∃ bytes : List Byte, bytes.length = n ∧ holdsAt m 0 bytes := by
  refine ⟨(List.range n).map fun i => (Memory.read m i).getD 0, by simp, fun i hi => ?_⟩
  obtain ⟨x, hx⟩ := Option.isSome_iff_exists.mp (written i (by simpa using hi))
  simp [hx]

/-- A transform that goes on leaves every data cell with a value. -/
theorem dataWritten_after_transform {dir : Direction} {s t : State} (ready : TransformReady s)
    (run : transform dir s = .next t) : writtenBelow t.dbuf s.dlen.toNat := by
  intro i hi
  obtain ⟨u, steps, rfl⟩ := transform_next_of_passed ready.key ready.dlen run
  exact (isSome_read_runByteSteps steps i).trans (dataWritten_of_next ready run i hi)

/-- transform with a decoded key and its block written runs its whole expansion and answers DBUF's bytes. -/
theorem transformOnBlock_of_key {data : List Byte} {s : State} (fits : data.length ≤ s.cfg.dmax.toNat)
    (key : s.kvalid = true) (hmin : 4 ≤ s.klen.toNat)
    (block : ∀ j < s.klen.toNat, (Memory.read s.kbuf (7 + j)).isSome) (dir : Direction) :
    ∃ out t, transformOnBlock dir data s = .done out t ∧ runOps (transformOps dir data) s = .next t ∧
      out.length = data.length ∧ holdsAt t.dbuf 0 out ∧ t.kvalid = true ∧ t.ok = true := by
  obtain ⟨u, run⟩ := transform_dataLoaded_completes fits key hmin block dir
  have ready := transformReady_dataLoaded fits key hmin
  have same := sameKeySide_transform run
  have record := recordsSuccess_transform ready run
  obtain ⟨out, length, held⟩ := exists_holdsAt (dataWritten_after_transform ready run)
  rw [dlen_dataLoaded fits] at length
  have readable : out.length ≤ (statusRead u).cfg.dmax.toNat := by
    rw [length, statusRead, answer_cfg, same.cfg]
    exact fits
  have reads := runOps_readD (s := statusRead u) readable held
  rw [length] at reads
  refine ⟨out, answerAll (out.map .byte) (statusRead u), ?_, ?_, length, held, same.kvalid.trans key, record.ok⟩
  · rw [transformOnBlock, if_neg (Nat.not_lt.mpr fits), runToStatus_transform fits run, if_neg (by simp [record.err]),
      ProcEnd.andThen_done, runHost_done reads, ProcEnd.andThen_done, newAnswers_answerAll, List.map_map]
    exact congrArg (ProcEnd.done · _) (List.map_id out)
  · rw [transformOps, runOps_append (runOps_transformToStatusOps fits run), reads]

/-- transform without a decoded key fails with NOKEY (spec/42_transform.md R101). -/
theorem transformOnBlock_of_noKey {data : List Byte} {s : State} (fits : data.length ≤ s.cfg.dmax.toNat)
    (noKey : s.kvalid = false) (dir : Direction) :
    ∃ t, transformOnBlock dir data s = .failed { kind := .invalidFormat, cause := .block 6 0 0 } t ∧
      runOps (transformToStatusOps dir data ++ errorRecordReads) s = .next t := by
  have run := transform_of_noKey (s := dataLoaded data s) noKey dir
  have failed : (failedWith false 2 6 0 0 (dataLoaded data s)).err = true := rfl
  refine ⟨statusAndRead recordRegisters (failedWith false 2 6 0 0 (dataLoaded data s)), ?_, ?_⟩
  · rw [transformOnBlock, if_neg (Nat.not_lt.mpr fits), runToStatus_transform fits run, if_pos failed,
      failWithRecord_eq, ProcEnd.andThen_failed]
    rfl
  · rw [runOps_append (runOps_transformToStatusOps fits run)]
    exact runOps_reads recordRegisters _

/-- Settles O52: with a key by `transformOnBlock_of_key`, without one by the first check of a transform. -/
theorem transformProcedureRunsItsExpansion : Obligations.TransformProcedureRunsItsExpansion := by
  unfold Obligations.TransformProcedureRunsItsExpansion
  intro dir s data fits
  refine ⟨fun key hmin block => transformOnBlock_of_key fits key hmin (fun j hj => ?_) dir,
    fun noKey => transformOnBlock_of_noKey fits noKey dir⟩
  have cell := block j hj
  rwa [keyBlock, if_pos ⟨key, hj⟩] at cell

/-! ## generate_key -/

/-- A length outside 4 to 65535 is reported first (spec/43_host_procedures.md R121; notes/assumptions/18.md). -/
theorem generateKey_badLength (draw : Nat → Byte) {klen : Int} (bad : klen < 4 ∨ 65535 < klen) (jf : Int)
    (jl : Option Int) :
    generateKey draw klen jf jl = .error (argumentOutside .keyLength 4 65535 klen) :=
  if_pos bad

/-- Then a jump_frequency override outside 1 to 255. -/
theorem generateKey_badFrequency (draw : Nat → Byte) {klen jf : Int} (legal : ¬ (klen < 4 ∨ 65535 < klen))
    (given : jf ≠ -1) (bad : jf < 1 ∨ 255 < jf) (jl : Option Int) :
    generateKey draw klen jf jl = .error (argumentOutside .jumpFrequency 1 255 jf) :=
  (if_neg legal).trans (if_pos ⟨given, bad⟩)

/-- Then a jump_length override outside 24 bits (notes/assumptions/21.md). -/
theorem generateKey_badJumpLength (draw : Nat → Byte) {klen jf v : Int} (legal : ¬ (klen < 4 ∨ 65535 < klen))
    (legalJf : ¬ (jf ≠ -1 ∧ (jf < 1 ∨ 255 < jf))) (bad : v < 0 ∨ 16777215 < v) :
    generateKey draw klen jf (some v) = .error (argumentOutside .jumpLength 0 16777215 v) :=
  ((if_neg legal).trans (if_neg legalJf)).trans (if_pos bad)

/-- The jump_length a generated Key carries: the override, or the bytes drawn for it. -/
def generatedJumpLength (draw : Nat → Byte) : Option Int → BitVec 24
  | none => jumpLengthOf (draw 1) (draw 2) (draw 3)
  | some v => BitVec.ofInt 24 v

/-- With legal arguments a Key is made of the overrides and of drawn bytes (spec/43_host_procedures.md R120, R122). -/
theorem generateKey_legal (draw : Nat → Byte) {klen jf : Int} {jl : Option Int}
    (legal : ¬ (klen < 4 ∨ 65535 < klen)) (legalJf : ¬ (jf ≠ -1 ∧ (jf < 1 ∨ 255 < jf)))
    (legalJl : ∀ v, jl = some v → 0 ≤ v ∧ v ≤ 16777215) :
    generateKey draw klen jf jl = .ok (keyEncode (if jf = -1 then draw 0 else BitVec.ofInt 8 jf)
      (generatedJumpLength draw jl) ((List.range klen.toNat).map fun j => draw (4 + j))) := by
  refine ((if_neg legal).trans (if_neg legalJf)).trans ?_
  cases jl with
  | none => rfl
  | some v =>
    obtain ⟨lo, hi⟩ := legalJl v rfl
    exact if_neg (by omega)

/-- Settles O55: the three checks in their order, and the Key that is left. -/
theorem generateKeyChecksItsArguments : Obligations.GenerateKeyChecksItsArguments := by
  unfold Obligations.GenerateKeyChecksItsArguments
  intro draw klen jf jl
  refine ⟨fun bad => generateKey_badLength draw bad jf jl,
    fun lo hi given bad => generateKey_badFrequency draw (by omega) given bad jl,
    fun lo hi legalJf => ⟨?badJl, fun legalJl => ?legal⟩⟩
  case badJl =>
    rintro v rfl bad
    exact generateKey_badJumpLength draw (by omega) (by omega) bad
  case legal =>
    refine ⟨_, _, _, generateKey_legal draw (by omega) (by omega) legalJl, by simp, fun given => ?_, ?_⟩
    · rw [if_neg given, BitVec.toNat_ofInt]
      omega
    · rintro v rfl
      obtain ⟨lo, hi⟩ := legalJl v rfl
      rw [generatedJumpLength, BitVec.toNat_ofInt]
      omega

end Sys2Proof.Machine

/-!
PROOFS. The chunked file codec (spec/43_host_procedures.md R125 to R129): the separator search, and that both streams
stop at the first access to the storage that fails. Outside the block.
-/

namespace Sys2Proof.Machine

/-! ## The separator search -/

/-- Condition (b) on a separator, of some unread input: no 1 KiB increment of it contains the separator
(spec/43_host_procedures.md R125). -/
def incrementsAvoid (sep l : List Byte) : Prop := ∀ m, ¬ sep <:+: (l.drop (chunkSize * m)).take chunkSize

theorem incrementsAvoid_nil {sep : List Byte} (hsep : sep ≠ []) : incrementsAvoid sep [] := by
  simpa [incrementsAvoid] using hsep

/-- The first increment, and the increments of the input behind it. -/
theorem incrementsAvoid_iff (sep l : List Byte) :
    incrementsAvoid sep l ↔ ¬ sep <:+: l.take chunkSize ∧ incrementsAvoid sep (l.drop chunkSize) := by
  have behind (m : Nat) : (l.drop chunkSize).drop (chunkSize * m) = l.drop (chunkSize * (m + 1)) := by
    rw [List.drop_drop, Nat.mul_succ, Nat.add_comm]
  simp only [incrementsAvoid, behind]
  refine ⟨fun h => ⟨h 0, fun m => h (m + 1)⟩, fun h m => ?_⟩
  cases m with
  | zero => exact h.1
  | succ m => exact h.2 m

/-- A read of a storage that does not fail takes the next increment. -/
theorem readChunk_ok {st : Storage} (readable : ∀ n, st.readOk n = true) (x : Session) :
    ∃ y, readChunk st x = .done (x.files.unread.take chunkSize) y ∧
      y.files.unread = x.files.unread.drop chunkSize := by
  obtain ⟨-, h⟩ | ⟨bad, -⟩ := readInput_cases st (fun l => (l.take chunkSize, l.drop chunkSize)) x
  · exact ⟨_, h, rfl⟩
  · simp [readable] at bad

/-- The check of condition (b) decides it, with more fuel than unread bytes. -/
theorem inputAvoids_ok {st : Storage} (readable : ∀ n, st.readOk n = true) {sep : List Byte} (hsep : sep ≠ [])
    (fuel : Nat) (x : Session) (enough : x.files.unread.length < fuel) :
    ∃ b y, inputAvoids st sep fuel x = .done b y ∧ (b = true ↔ incrementsAvoid sep x.files.unread) := by
  induction fuel generalizing x with
  | zero => exact absurd enough (Nat.not_lt_zero _)
  | succ fuel ih =>
    obtain ⟨y, hread, behind⟩ := readChunk_ok readable x
    rw [inputAvoids, hread, ProcEnd.andThen_done]
    by_cases atEnd : x.files.unread = []
    · exact ⟨true, y, by simp [atEnd], by simp [atEnd, incrementsAvoid_nil hsep]⟩
    have more : (x.files.unread.take chunkSize).isEmpty = false := by simp [atEnd, chunkSize]
    rw [more, if_neg Bool.false_ne_true, incrementsAvoid_iff]
    by_cases found : occursIn sep (x.files.unread.take chunkSize) = true
    · rw [if_pos found]
      exact ⟨false, y, rfl, by simp [(occursIn_iff ..).mp found]⟩
    · rw [if_neg found, and_iff_right (mt (occursIn_iff ..).mpr found), ← behind]
      refine ih y ?_
      have := List.length_pos_iff.mpr atEnd
      rw [behind, List.length_drop, chunkSize]
      omega

theorem tokenOf_ne_nil (draw : Nat → Nat → Byte) {len : Nat} (h : 1 ≤ len) : tokenOf draw len ≠ [] :=
  List.ne_nil_of_length_pos (by rwa [tokenOf_length])

/-- One try of the search: a token that fits is answered, after one that does not the search goes on. -/
theorem findSeparator_succ {st : Storage} (readable : ∀ n, st.readOk n = true) (p : CodecParams)
    (draw : Nat → Nat → Byte) (tries : Nat) {len : Nat} (hlen : 1 ≤ len) (x : Session) :
    (separatorFits st p (tokenOf draw len) →
      ∃ y, findSeparator st p draw (tries + 1) len x = .done (tokenOf draw len) y) ∧
    (¬ separatorFits st p (tokenOf draw len) →
      ∃ y, findSeparator st p draw (tries + 1) len x = findSeparator st p draw tries (len + 1) y) := by
  rw [findSeparator]
  by_cases terminator : p.lineTerminator ∈ tokenOf draw len
  · rw [if_pos (List.contains_iff_mem.mpr terminator)]
    exact ⟨fun fits => absurd terminator fits.1, fun _ => ⟨x, rfl⟩⟩
  · obtain ⟨avoids, y, check, avoids_iff⟩ := inputAvoids_ok readable (tokenOf_ne_nil draw hlen)
      (st.content.length + 1) (rewind st x) (Nat.lt_succ_self _)
    have fits_iff : separatorFits st p (tokenOf draw len) ↔ avoids = true := by
      rw [avoids_iff]
      exact and_iff_right terminator
    rw [if_neg (mt List.contains_iff_mem.mp terminator), check, ProcEnd.andThen_done, fits_iff]
    exact ⟨fun found => ⟨y, if_pos found⟩, fun other => ⟨y, if_neg other⟩⟩

/-- The search answers the token of the smallest length that fits. -/
theorem findSeparator_found {st : Storage} (readable : ∀ n, st.readOk n = true) (p : CodecParams)
    (draw : Nat → Nat → Byte) {n : Nat} (fits : separatorFits st p (tokenOf draw n)) (tries : Nat) {len : Nat}
    (hlen : 1 ≤ len) (hn : len ≤ n) (inRange : n < len + tries)
    (shortest : ∀ k, len ≤ k → k < n → ¬ separatorFits st p (tokenOf draw k)) (x : Session) :
    ∃ y, findSeparator st p draw tries len x = .done (tokenOf draw n) y := by
  induction tries generalizing len x with
  | zero => omega
  | succ tries ih =>
    obtain ⟨found, other⟩ := findSeparator_succ readable p draw tries hlen x
    obtain rfl | later := hn.eq_or_lt
    · exact found fits
    · obtain ⟨y, hy⟩ := other (shortest len le_rfl later)
      rw [hy]
      exact ih (by omega) later (by omega) (fun k hk => shortest k (by omega)) y

/-- The search fails when no token of the lengths tried fits. -/
theorem findSeparator_none {st : Storage} (readable : ∀ n, st.readOk n = true) (p : CodecParams)
    (draw : Nat → Nat → Byte) (tries : Nat) {len : Nat} (hlen : 1 ≤ len)
    (none : ∀ k, len ≤ k → k < len + tries → ¬ separatorFits st p (tokenOf draw k)) (x : Session) :
    ∃ y, findSeparator st p draw tries len x =
      .failed { kind := p.separatorFailure.kind, cause := .noSeparator sepLenMin sepLenMax } y := by
  induction tries generalizing len x with
  | zero => exact ⟨x, rfl⟩
  | succ tries ih =>
    obtain ⟨-, other⟩ := findSeparator_succ readable p draw tries hlen x
    obtain ⟨y, hy⟩ := other (none len le_rfl (by omega))
    rw [hy]
    exact ih (by omega) (fun k hk hlt => none k (by omega) (by omega)) y

/-- Settles O53: the search tries the lengths 3 to 64 in order. -/
theorem separatorIsTheShortestThatFits : Obligations.SeparatorIsTheShortestThatFits := by
  unfold Obligations.SeparatorIsTheShortestThatFits
  intro st p draw x readable
  refine ⟨fun n hmin hmax fits shortest => ⟨tokenOf_length draw n, ?_⟩, fun none => ?_⟩
  · exact findSeparator_found readable p draw fits _ (by decide) hmin (Nat.lt_succ_of_le hmax) shortest x
  · exact findSeparator_none readable p draw _ (by decide)
      (fun k hmin hlt => none k hmin (Nat.le_of_lt_succ hlt)) x

/-! ## Accesses to the storage

A call notes every access it tries. Either all of them succeeded and the call did not end in the storage's failure, or
it ended in it right after the one that failed. -/

/-- Whether the access tried next, after those in the journal `j`, succeeds. -/
def accessOk (st : Storage) (j : List FileAccess) : FileAccess → Bool
  | .read => st.readOk (j.count .read)
  | .write => st.writeOk (j.count .write)

/-- Every access in a journal succeeded. -/
def allSucceeded (st : Storage) (j : List FileAccess) : Prop :=
  (∀ n < j.count .read, st.readOk n = true) ∧ (∀ n < j.count .write, st.writeOk n = true)

theorem allSucceeded.cons {st : Storage} {j : List FileAccess} (h : allSucceeded st j) {a : FileAccess}
    (ok : accessOk st j a = true) : allSucceeded st (a :: j) := by
  obtain ⟨reads, writes⟩ := h
  cases a with
  | read =>
    refine ⟨fun n hn => ?_, fun n hn => writes n (by simpa using hn)⟩
    rw [List.count_cons_self] at hn
    obtain rfl | earlier := (Nat.le_of_lt_succ hn).eq_or_lt
    · exact ok
    · exact reads n earlier
  | write =>
    refine ⟨fun n hn => reads n (by simpa using hn), fun n hn => ?_⟩
    rw [List.count_cons_self] at hn
    obtain rfl | earlier := (Nat.le_of_lt_succ hn).eq_or_lt
    · exact ok
    · exact writes n earlier

/-- A call's end and the accesses it tried agree (spec/43_host_procedures.md R129). -/
inductive StopsAtFailure {α : Type} (st : Storage) (e : ProcEnd Session α) : Prop where
  | noFailure (succeeded : allSucceeded st e.state.files.journal) (other : ∀ x, e ≠ .failed storageFailure x)
  | atLast {x : Session} {a : FileAccess} {j : List FileAccess} (ended : e = .failed storageFailure x)
      (last : x.files.journal = a :: j) (before : allSucceeded st j) (failed : accessOk st j a = false)

/-- Going on after a part that stops at a failure. -/
theorem StopsAtFailure.andThen {α β : Type} {st : Storage} {e : ProcEnd Session α}
    {k : α → Session → ProcEnd Session β} (h : StopsAtFailure st e)
    (next : ∀ a x, allSucceeded st x.files.journal → StopsAtFailure st (k a x)) : StopsAtFailure st (e.andThen k) := by
  cases h with
  | noFailure succeeded other =>
    cases e with
    | done a x => exact next a x succeeded
    | failed r x => exact .noFailure succeeded fun y h => other x (by cases h; rfl)
    | stopped f x => exact .noFailure succeeded (by simp)
    | refused r x => exact .noFailure succeeded (by simp)
  | atLast ended last before failed =>
    subst ended
    exact .atLast rfl last before failed

theorem StopsAtFailure.done {α : Type} {st : Storage} {x : Session} (h : allSucceeded st x.files.journal) (a : α) :
    StopsAtFailure st (.done a x) :=
  .noFailure h (by simp)

/-- An end that the host reports itself is not the storage's. -/
theorem StopsAtFailure.report {α : Type} {st : Storage} {x : Session} (h : allSucceeded st x.files.journal)
    {r : ErrorReport} (other : r.cause ≠ .storage) : StopsAtFailure st (.failed r x : ProcEnd Session α) :=
  .noFailure h fun _ same => other (by cases same; rfl)

theorem stopsAtFailure_readInput {α : Type} {st : Storage} {x : Session} (h : allSucceeded st x.files.journal)
    (split : List Byte → α × List Byte) : StopsAtFailure st (readInput st split x) := by
  obtain ⟨ok, read⟩ | ⟨bad, read⟩ := readInput_cases st split x
  · rw [read]
    exact .done (h.cons (a := .read) ok) _
  · rw [read]
    exact .atLast (a := .read) rfl rfl h bad

theorem stopsAtFailure_writeOutput {st : Storage} {x : Session} (h : allSucceeded st x.files.journal)
    (bytes : List Byte) : StopsAtFailure st (writeOutput st bytes x) := by
  obtain ⟨ok, write⟩ | ⟨bad, write⟩ := writeOutput_cases st bytes x
  · rw [write]
    exact .done (h.cons (a := .write) ok) _
  · rw [write]
    exact .atLast (a := .write) rfl rfl h bad

/-! ## Using the block is no access -/

/-- A procedure on the block never reports the storage's failure. -/
def neverStorage {σ α : Type} (e : ProcEnd σ α) : Prop := ∀ r s, e = .failed r s → r.cause ≠ .storage

theorem neverStorage.andThen {σ α β : Type} {e : ProcEnd σ α} {k : α → σ → ProcEnd σ β} (h : neverStorage e)
    (next : ∀ a s, neverStorage (k a s)) : neverStorage (e.andThen k) := by
  cases e with
  | done a s => exact next a s
  | failed r s => exact fun r' s' same => h r' s (by cases same; rfl)
  | stopped f s => simp [neverStorage, ProcEnd.andThen]
  | refused r s => simp [neverStorage, ProcEnd.andThen]

theorem neverStorage_done {σ α : Type} (a : α) (s : σ) : neverStorage (.done a s) := by
  simp [neverStorage]

theorem neverStorage_failed {σ α : Type} {r : ErrorReport} (s : σ) (h : r.cause ≠ .storage) :
    neverStorage (.failed r s : ProcEnd σ α) :=
  fun _ _ same => by cases same; exact h

theorem neverStorage_runHost (ops : List HostOp) (s : State) : neverStorage (runHost ops s) := by
  unfold runHost
  split
  · exact neverStorage_done _ _
  · intro _ _ same; cases same
  · intro _ _ same; cases same

theorem neverStorage_runToStatus (ops : List HostOp) (s : State) : neverStorage (runToStatus ops s) := by
  refine (neverStorage_runHost ops s).andThen fun as t => ?_
  split
  · rw [failWithRecord_eq]
    exact neverStorage_failed _ nofun
  · exact neverStorage_done _ _

theorem neverStorage_loadKey (key : List Byte) (s : State) : neverStorage (loadKey (some key) s) := by
  rw [loadKey]
  split
  · exact neverStorage_failed _ nofun
  · refine neverStorage.andThen ?_ fun _ t => neverStorage_done _ _
    refine (neverStorage_runToStatus _ _).andThen fun _ t => ?_
    exact (neverStorage_runHost _ _).andThen fun _ u => neverStorage_done _ _

theorem neverStorage_transformOnBlock (dir : Direction) (data : List Byte) (s : State) :
    neverStorage (transformOnBlock dir data s) := by
  rw [transformOnBlock]
  split
  · exact neverStorage_failed _ nofun
  · refine (neverStorage_runToStatus _ _).andThen fun _ t => ?_
    exact (neverStorage_runHost _ _).andThen fun _ u => neverStorage_done _ _

/-- Using the block tries no access. -/
theorem stopsAtFailure_onBlock {α : Type} {st : Storage} {x : Session} (h : allSucceeded st x.files.journal)
    {proc : State → ProcEnd State α} (never : ∀ s, neverStorage (proc s)) : StopsAtFailure st (onBlock proc x) := by
  refine .noFailure ((onBlock_files proc x).symm ▸ h) fun y same => ?_
  unfold onBlock at same
  cases hproc : proc x.block with
  | failed r s =>
    rw [hproc] at same
    cases same
    exact never x.block _ _ hproc rfl
  | done a s => rw [hproc] at same; cases same
  | stopped f s => rw [hproc] at same; cases same
  | refused r s => rw [hproc] at same; cases same

/-! ## The parts of both streams -/

section
variable {st : Storage} (p : CodecParams)

theorem stopsAtFailure_inputAvoids (sep : List Byte) (fuel : Nat) {x : Session}
    (h : allSucceeded st x.files.journal) : StopsAtFailure st (inputAvoids st sep fuel x) := by
  induction fuel generalizing x with
  | zero => exact .done h true
  | succ fuel ih =>
    refine (stopsAtFailure_readInput h _).andThen fun c y hy => ?_
    split
    · exact .done hy true
    · split
      · exact .done hy false
      · exact ih hy

theorem stopsAtFailure_findSeparator (draw : Nat → Nat → Byte) (tries len : Nat) {x : Session}
    (h : allSucceeded st x.files.journal) : StopsAtFailure st (findSeparator st p draw tries len x) := by
  induction tries generalizing len x with
  | zero => exact .report h nofun
  | succ tries ih =>
    rw [findSeparator]
    split
    · exact ih _ h
    · refine (stopsAtFailure_inputAvoids _ _ (x := rewind st x) h).andThen fun avoids y hy => ?_
      split
      · exact .done hy _
      · exact ih _ hy

theorem stopsAtFailure_encryptChunk (sep chunk : List Byte) {x : Session} (h : allSucceeded st x.files.journal) :
    StopsAtFailure st (encryptChunk st p sep chunk x) :=
  (stopsAtFailure_onBlock h (neverStorage_transformOnBlock _ _)).andThen fun _ _ hy => stopsAtFailure_writeOutput hy _

theorem stopsAtFailure_encryptChunks (sep : List Byte) (fuel : Nat) {x : Session}
    (h : allSucceeded st x.files.journal) : StopsAtFailure st (encryptChunks st p sep fuel x) := by
  induction fuel generalizing x with
  | zero => exact .done h ()
  | succ fuel ih =>
    refine (stopsAtFailure_readInput h _).andThen fun c y hy => ?_
    split
    · exact .done hy ()
    · exact (stopsAtFailure_encryptChunk p sep c hy).andThen fun _ z hz => ih hz

theorem stopsAtFailure_readSeparator {x : Session} (h : allSucceeded st x.files.journal) :
    StopsAtFailure st (readSeparator st p x) := by
  refine (stopsAtFailure_readInput h _).andThen fun line y hy => ?_
  split
  · exact .report hy nofun
  · split
    · split
      · exact .report hy nofun
      · exact .done hy _
    · split
      · exact .done hy _
      · exact .report hy nofun
      · exact .report hy nofun

theorem stopsAtFailure_decryptLine (sep : List Byte) (l : Line) {x : Session} (h : allSucceeded st x.files.journal) :
    StopsAtFailure st (decryptLine st p sep l x) := by
  unfold decryptLine
  split
  · exact (stopsAtFailure_onBlock h (neverStorage_transformOnBlock _ _)).andThen fun _ _ hy =>
      stopsAtFailure_writeOutput hy _
  · exact .done h ()
  · refine .report h ?_
    unfold badFormat
    split <;> exact nofun

theorem stopsAtFailure_decryptLines (sep : List Byte) (fuel : Nat) {x : Session}
    (h : allSucceeded st x.files.journal) : StopsAtFailure st (decryptLines st p sep fuel x) := by
  induction fuel generalizing x with
  | zero => exact .done h ()
  | succ fuel ih =>
    refine (stopsAtFailure_readInput h _).andThen fun line y hy => ?_
    split
    · exact .done hy ()
    · exact (stopsAtFailure_decryptLine p sep _ hy).andThen fun _ z hz => ih hz

end

/-! ## The two streams -/

/-- Releasing the handles and losing a failed call's output change neither the end nor the accesses tried. -/
theorem stopsAtFailure_withHandles {α : Type} {st : Storage} {call : Session → ProcEnd Session α} {s : State}
    (h : StopsAtFailure st (call (openSession st s))) : StopsAtFailure st (withHandles st call s) := by
  obtain ⟨a, x, hcall, hend⟩ | ⟨r, x, hcall, hend⟩ | ⟨f, x, hcall, hend⟩ | ⟨r, x, hcall, hend⟩ :=
    withHandles_cases st call s <;> rw [hcall] at h <;> rw [hend]
  case inr.inl =>
    cases h with
    | noFailure succeeded other => exact .noFailure succeeded fun y same => other x (by cases same; rfl)
    | atLast ended last before failed => cases ended; exact .atLast rfl last before failed
  all_goals
    cases h with
    | noFailure succeeded _ => exact .noFailure succeeded (by simp)
    | atLast ended _ _ _ => cases ended

/-- Nothing has been tried when a call starts. -/
theorem allSucceeded_openSession (st : Storage) (s : State) : allSucceeded st (openSession st s).files.journal :=
  ⟨nofun, nofun⟩

theorem stopsAtFailure_encryptStream (st : Storage) (p : CodecParams) (draw : Nat → Nat → Byte) (key : List Byte)
    (s : State) : StopsAtFailure st (encryptStream st p draw key s) := by
  refine stopsAtFailure_withHandles ?_
  refine (stopsAtFailure_onBlock (allSucceeded_openSession st s) (neverStorage_loadKey key)).andThen fun _ x₁ h₁ => ?_
  refine (stopsAtFailure_findSeparator p draw _ _ h₁).andThen fun sep x₂ h₂ => ?_
  refine (stopsAtFailure_writeOutput h₂ _).andThen fun _ x₃ h₃ => ?_
  refine (stopsAtFailure_encryptChunks p sep _ (x := rewind st x₃) h₃).andThen fun _ x₄ h₄ => ?_
  split
  · exact stopsAtFailure_encryptChunk p sep [] h₄
  · exact .done h₄ ()

theorem stopsAtFailure_decryptStream (st : Storage) (p : CodecParams) (key : List Byte) (s : State) :
    StopsAtFailure st (decryptStream st p key s) := by
  refine stopsAtFailure_withHandles ?_
  refine (stopsAtFailure_onBlock (allSucceeded_openSession st s) (neverStorage_loadKey key)).andThen fun _ x₁ h₁ => ?_
  exact (stopsAtFailure_readSeparator p h₁).andThen fun sep x₂ h₂ => stopsAtFailure_decryptLines p sep _ h₂

/-- What stopping at the first failure says of the counts of accesses, as the host sees them. -/
theorem StopsAtFailure.counts {st : Storage} {e : ProcEnd Session Unit} (h : StopsAtFailure st e) :
    (∀ n, n + 1 < e.state.files.reads → st.readOk n = true) ∧
    (∀ n, n + 1 < e.state.files.writes → st.writeOk n = true) ∧
    (∀ n, n + 1 = e.state.files.reads → st.readOk n = false → e.state.files.journal.head? = some .read) ∧
    (∀ n, n + 1 = e.state.files.writes → st.writeOk n = false → e.state.files.journal.head? = some .write) ∧
    ((∃ x, e = .failed storageFailure x) ↔
      ((∃ n, n + 1 = e.state.files.reads ∧ st.readOk n = false) ∨
        (∃ n, n + 1 = e.state.files.writes ∧ st.writeOk n = false))) := by
  unfold Files.reads Files.writes
  cases h with
  | noFailure succeeded other =>
    obtain ⟨reads, writes⟩ := succeeded
    have noRead : ∀ n, n + 1 = e.state.files.journal.count .read → st.readOk n ≠ false := fun n hn => by
      simp [reads n (by omega)]
    have noWrite : ∀ n, n + 1 = e.state.files.journal.count .write → st.writeOk n ≠ false := fun n hn => by
      simp [writes n (by omega)]
    refine ⟨fun n hn => reads n (by omega), fun n hn => writes n (by omega), fun n hn bad => absurd bad (noRead n hn),
      fun n hn bad => absurd bad (noWrite n hn), ⟨fun ⟨x, hx⟩ => absurd hx (other x), ?_⟩⟩
    rintro (⟨n, hn, bad⟩ | ⟨n, hn, bad⟩)
    · exact absurd bad (noRead n hn)
    · exact absurd bad (noWrite n hn)
  | @atLast x a j ended last before failed =>
    subst ended
    obtain ⟨reads, writes⟩ := before
    change (∀ n, n + 1 < x.files.journal.count .read → _) ∧ (∀ n, n + 1 < x.files.journal.count .write → _) ∧
      (∀ n, n + 1 = x.files.journal.count .read → _ → x.files.journal.head? = _) ∧
      (∀ n, n + 1 = x.files.journal.count .write → _ → x.files.journal.head? = _) ∧
      (_ ↔ (∃ n, n + 1 = x.files.journal.count .read ∧ _) ∨ (∃ n, n + 1 = x.files.journal.count .write ∧ _))
    cases a with
    | read =>
      have others : x.files.journal.count .write = j.count .write := by simp [last]
      rw [others, last, List.count_cons_self]
      refine ⟨fun n hn => reads n (by omega), fun n hn => writes n (by omega), fun _ _ _ => rfl, fun n hn bad => ?_,
        fun _ => .inl ⟨_, rfl, failed⟩, fun _ => ⟨x, rfl⟩⟩
      simp [writes n (by omega)] at bad
    | write =>
      have others : x.files.journal.count .read = j.count .read := by simp [last]
      rw [others, last, List.count_cons_self]
      refine ⟨fun n hn => reads n (by omega), fun n hn => writes n (by omega), fun n hn bad => ?_, fun _ _ _ => rfl,
        fun _ => .inr ⟨_, rfl, failed⟩, fun _ => ⟨x, rfl⟩⟩
      simp [reads n (by omega)] at bad

/-- Settles O54: every part of both streams stops at the first failure, and the handles are released on every path. -/
theorem codecStopsAtTheFirstStorageFailure : Obligations.CodecStopsAtTheFirstStorageFailure := by
  unfold Obligations.CodecStopsAtTheFirstStorageFailure
  rintro st p draw key s e (rfl | rfl)
  · obtain ⟨inputReleased, outputReleased⟩ := withHandles_released st _ s
    exact ⟨inputReleased, outputReleased, (stopsAtFailure_encryptStream st p draw key s).counts⟩
  · obtain ⟨inputReleased, outputReleased⟩ := withHandles_released st _ s
    exact ⟨inputReleased, outputReleased, (stopsAtFailure_decryptStream st p key s).counts⟩

end Sys2Proof.Machine
